-- ==== Sys2Proof/Word.lean ====
section
/-! DEFINITION. The words of the block: the command word, the phase code, and the two named-value registers
`PHASE` and `CAUSE`. Bit 0 is the least significant bit everywhere (R6, R42). -/

namespace Sys2Proof

/-- A 64-bit unsigned word: `X`, `HI`, `LO`, the `DATA` field, the multiplier (R3, parameter `W`). -/
abbrev Word := BitVec 64

/-- The 65-bit command word of the port `cmd`: bit 64 is `OP`, bits 63:0 are `DATA` (R41, R56). -/
abbrev CmdWord := BitVec 65

/-- The 3-bit phase code held in `PHASE` (R56). -/
abbrev PhaseCode := BitVec 3

/-- The two formats of R56: the command word and the phase code. -/
inductive Format where
  | cmd
  | ph
deriving DecidableEq, Repr

/-- An encoded thing: a word of one of the two formats (R56: each has one fixed length). -/
inductive CodeWord where
  | cmd (w : CmdWord)
  | ph (c : PhaseCode)
deriving DecidableEq, Repr

/-- The values of the register `PHASE`, in the order of their codes 0 to 7 (R27: "a model may use an enumerated
type"). -/
inductive Phase where
  | idle
  | mul
  | split
  | recomb
  | precorr
  | corr
  | commit
  | faulted
deriving DecidableEq, Repr

/-- The values of the register `CAUSE`, in the order of their codes 0 to 3 (R29, R120). -/
inductive Cause where
  | none
  | seedRange
  | unseeded
  | corrBound
deriving DecidableEq, Repr

end Sys2Proof
end

