-- ==== Sys2Proof/Config.lean ====
section
/-! DEFINITION. The wired constants of the block (R3, R31); the free values, what the spec leaves unspecified in a
register after a reset event (R140, U6, U7; log entry 3); and the OPEN parameters of R3, constants of which nothing
is known (log entry 7). `M`, `C`, `KLIM` and `CEIL` are ONE coupled set: none
may be changed alone (R146, U8). -/

namespace Sys2Proof.Config

/-- The modulus `M = 2^64 - 59` (R3). Coupled with `C`, `KLIM` and `CEIL` (R146). -/
def M : Nat := 18446744073709551557

/-- The recombination weight `C = 2^64 - M = 59` (R3). Coupled with `M` (R146). -/
def C : Nat := 59

/-- The wired multiplier `A` (R3, R31). There is no port and no register for it (D2). -/
def A : Word := 13891176665706064842#64

/-- The exclusive upper limit of the pre-correction test (R3, R86). Coupled with `M` (R146). -/
def KLIM : Int := 100

/-- The largest number of subtractions the correction loop may make in one STEP (R3, R87, D10). -/
def CEIL : Nat := 3

/-- The seed the source's driver gives (R3): a host value, not a reset value. -/
def SEED0 : Nat := 1

/-- The number of STEPs the source's driver makes (R3): a host value. -/
def NSTEPS : Nat := 100000

/-- FREE VALUE (log entry 3): what `X` holds after the n-th reset event (R140: unspecified). -/
opaque resetX : Nat → Word

/-- FREE VALUE (log entry 3): what `P` holds after the n-th reset event (R140: unspecified). -/
opaque resetP : Nat → BitVec 128

/-- FREE VALUE (log entry 3): what `HI` holds after the n-th reset event (R140: unspecified). -/
opaque resetHi : Nat → Word

/-- FREE VALUE (log entry 3): what `LO` holds after the n-th reset event (R140: unspecified). -/
opaque resetLo : Nat → Word

/-- FREE VALUE (log entry 3): what `R` holds after the n-th reset event (R140: unspecified). -/
opaque resetR : Nat → BitVec 71

/-- FREE VALUE (log entry 3): what `K` holds after the n-th reset event (R140: unspecified). -/
opaque resetK : Nat → BitVec 8

/-- FREE VALUE (log entry 3): what `CNT` holds after the n-th reset event (R140: unspecified). -/
opaque resetCnt : Nat → BitVec 2

/-! ### The OPEN parameters (R3; log entry 7) -/

/-- The events that have a latency of their own: the list `LAT_ACCEPT` to `LAT_COMMIT` (D16, R148). -/
inductive Timed where
  | accept
  | mul
  | split
  | recomb
  | precorr
  | corr
  | commit
deriving DecidableEq, Repr

/-- Is the block realised with a clock? The spec says neither (R9, R148: "if the block is clocked"). -/
opaque clocked : Bool

/-- How many clock cycles beyond its first each event takes. -/
opaque cyclesBeyondFirst : Timed → Nat

/-- `LAT_*` (R3, OPEN): the clock cycles of an event, at least 1 if the block is clocked, and none where it has no
clock (D16, R148). -/
def lat (e : Timed) : Option Nat :=
  if clocked then some (cyclesBeyondFirst e + 1) else none

/-- What `RESET_KIND` leaves open about the signal on the port `reset` (R140, D17). -/
structure ResetKind where
  /-- Synchronous, or asynchronous. -/
  synchronous : Bool
  /-- Active high, or active low. -/
  activeHigh : Bool
  /-- How long the signal must be held, in whatever unit the realisation counts. -/
  minimumWidth : Nat
deriving DecidableEq, Repr, Inhabited

/-- `RESET_KIND` (R3, OPEN). -/
opaque resetKind : ResetKind

/-- What a platform's bus wrapper around the block may be: its register addresses, protocol and byte order, none of
which the spec defines (R45, D22). -/
opaque BusWrapper : Type

/-- `BUS_WRAPPER` (D22, OPEN); none where the platform attaches the block to no bus. -/
opaque busWrapper : Option BusWrapper

end Sys2Proof.Config
end

