-- ==== Sys2Proof/Machine/Operands.lean ====
section
/-! DEFINITION. The operand forms: the slices of registers the micro-operations read (R6's `v[hi:lo]`). -/

namespace Sys2Proof.Machine

open Sys2Proof

/-- `v[hi:lo] = floor(v / 2^lo) mod 2^(hi-lo+1)` (R6). -/
def slice (v hi lo : Nat) : Nat :=
  v / 2 ^ lo % 2 ^ (hi - lo + 1)

/-- `P[127:64]`, which SPLIT writes to `HI` (R84). -/
def productHi (p : BitVec 128) : Word :=
  p.extractLsb' 64 64

/-- `P[63:0]`, which SPLIT writes to `LO` (R84). -/
def productLo (p : BitVec 128) : Word :=
  p.extractLsb' 0 64

/-- `q = R[70:64]`, the source's `r >> 64` (R86). -/
def upperPart (r : BitVec 71) : BitVec 7 :=
  r.extractLsb' 64 7

/-- `R[63:0]`, which COMMIT writes to `X` (R88). -/
def lowerPart (r : BitVec 71) : Word :=
  r.extractLsb' 0 64

end Sys2Proof.Machine
end

