-- ==== Sys2Proof/Machine/Arith.lean ====
section
/-! DEFINITION. The arithmetic of the micro-operations, once, over exact integers narrowed at the end (R100: no
narrowing ever loses anything), and the pure functions built from it: `Mul64` (R83), `FastStep` (R90), `RefStep`
(R91). -/

namespace Sys2Proof.Machine

open Sys2Proof

/-! ### The operations of the six algorithm steps -/

/-- The full double-width product (R82). -/
def product (a x : Word) : BitVec 128 :=
  BitVec.ofNat 128 (a.toNat * x.toNat)

/-- `LO + 59 * HI` over 71 bits (R85). -/
def recombine (hi lo : Word) : BitVec 71 :=
  BitVec.ofNat 71 (lo.toNat + Config.C * hi.toNat)

/-- `k = (R >> 64) - 1`, a signed number (R86). -/
def preK (r : BitVec 71) : Int :=
  ((upperPart r).toNat : Int) - 1

/-- What PRECORR writes to `K`: `k` in 8 bits two's complement (R25, R86). -/
def preKReg (r : BitVec 71) : BitVec 8 :=
  BitVec.ofInt 8 (preK r)

/-- The pre-correction: subtract `k * M` when `0 < k < 100`, both comparisons strict and signed (R86). -/
def preCorrect (r : BitVec 71) : BitVec 71 :=
  if 0 < preK r ∧ preK r < Config.KLIM then
    BitVec.ofNat 71 (r.toNat - (preK r).toNat * Config.M)
  else r

/-- The loop condition `R >= M`, a 71-bit unsigned comparison (R87). -/
def atLeastM (r : BitVec 71) : Bool :=
  decide (Config.M ≤ r.toNat)

/-- `R - M` (R87); used only where `R >= M`. -/
def subtractM (r : BitVec 71) : BitVec 71 :=
  BitVec.ofNat 71 (r.toNat - Config.M)

/-- The range check of a seed (R72). -/
def seedInRange (v : Word) : Bool :=
  decide (v.toNat < Config.M)

/-! ### `Mul64` from four partial products (R83) -/

/-- The four partial products and their middle sum (R83). -/
structure PartialProducts where
  ll : Nat
  lh : Nat
  hl : Nat
  hh : Nat
  mid : Nat
deriving DecidableEq, Repr

/-- The partial products of the 32-bit halves (R83). -/
def partialProducts (a b : Word) : PartialProducts :=
  let al := slice a.toNat 31 0
  let ah := slice a.toNat 63 32
  let bl := slice b.toNat 31 0
  let bh := slice b.toNat 63 32
  let ll := al * bl
  let lh := al * bh
  let hl := ah * bl
  { ll := ll, lh := lh, hl := hl, hh := ah * bh,
    mid := slice ll 63 32 + slice lh 31 0 + slice hl 31 0 }

/-- `Mul64(a, b) = (hi64, lo64)` (R83): the wide multiply for 32-bit multipliers. -/
def mul64 (a b : Word) : Word × Word :=
  let t := partialProducts a b
  (BitVec.ofNat 64 (t.hh + slice t.lh 63 32 + slice t.hl 63 32 + slice t.mid 63 32),
   BitVec.ofNat 64 (slice t.mid 31 0 * 2 ^ 32 + slice t.ll 31 0))

/-! ### `FastStep` and `RefStep` -/

/-- `r0`, the value RECOMB would write for the operands `a`, `x` (R90). -/
def recombined (a x : Word) : BitVec 71 :=
  recombine (productHi (product a x)) (productLo (product a x))

/-- The bounded loop `while r >= M do r = r - M`, from a count `n`: `none` when a subtraction is wanted and the
allowance is used up, the CorrBound case (R87, R90). -/
def corrLoop : Nat → BitVec 71 → Nat → Option (BitVec 71 × Nat)
  | 0, r, n => if atLeastM r then none else some (r, n)
  | left + 1, r, n => if atLeastM r then corrLoop left (subtractM r) (n + 1) else some (r, n)

/-- `FastStep(a, x)` with its count `n` of loop subtractions (R90); `none` would be the CorrBound fault. -/
def fastStepCount (a x : Word) : Option (Word × Nat) :=
  (corrLoop Config.CEIL (preCorrect (recombined a x)) 0).map (fun rn => (lowerPart rn.1, rn.2))

/-- `FastStep(a, x)` (R90), for every 64-bit `a` and `x`; `none` would be the CorrBound fault. -/
def fastStep (a x : Word) : Option Word :=
  (fastStepCount a x).map Prod.fst

/-- `RefStep(a, x) = (a * x) mod M` over unbounded integers (R91): the function the block's result is held to, no
part of the hardware. -/
def refStep (a x : Word) : Nat :=
  a.toNat * x.toNat % Config.M

end Sys2Proof.Machine
end

