-- ==== Sys2Proof/Syntax.lean ====
section
/-! DEFINITION. The instructions: one constructor per row of spec/opcode_table.json (R59, R60). -/

namespace Sys2Proof

/-- What the block can be asked to do (the two commands, R59) and what its sequencer can be at (the eight phase
codes, R60). -/
inductive Instr where
  /-- SEED: the only operand is `DATA`, an unsigned 64-bit number (R58, R72). -/
  | seed (data : Word)
  /-- STEP: `DATA` is ignored (R62, R73); it is kept so that no bit of the word is dropped. -/
  | step (data : Word)
  /-- IDLE, phase 0 (R81). -/
  | idle
  /-- MUL, phase 1 (R82). -/
  | mul
  /-- SPLIT, phase 2 (R84). -/
  | split
  /-- RECOMB, phase 3 (R85). -/
  | recomb
  /-- PRECORR, phase 4 (R86). -/
  | precorr
  /-- CORR, phase 5 (R87). -/
  | corr
  /-- COMMIT, phase 6 (R88). -/
  | commit
  /-- FAULTED, phase 7 (R89). -/
  | faulted
deriving DecidableEq, Repr

end Sys2Proof
end

