-- ==== Sys2Proof/WellFormed.lean ====
section
/-! DEFINITION. What is well formed. The operand's type carries the whole of R58 (`DATA` is a number from 0 to
2^64 - 1), and R62 makes no command word and no phase code illegal, so every instruction is well formed; what can
be ill formed is a NUMBER offered as a word (it may not fit the format), and a STEP may be spelled otherwise than
in its canonical form. -/

namespace Sys2Proof

/-- The number of bits of a word of the format (R56). -/
def Format.width : Format → Nat
  | .cmd => 65
  | .ph => 3

/-- Does the number fit the format's one fixed length (R56, R63)? -/
def Format.fits (f : Format) (w : Nat) : Bool :=
  decide (w < 2 ^ f.width)

/-- Every instruction is well formed (R62: none is illegal and none is reserved). -/
def Instr.wellFormed : Instr → Bool
  | .seed _ => true
  | .step _ => true
  | .idle => true
  | .mul => true
  | .split => true
  | .recomb => true
  | .precorr => true
  | .corr => true
  | .commit => true
  | .faulted => true

/-- The canonical spelling of R62: a STEP has `DATA = 0`. -/
def Instr.canonical : Instr → Bool
  | .seed _ => true
  | .step d => decide (d = 0#64)
  | .idle => true
  | .mul => true
  | .split => true
  | .recomb => true
  | .precorr => true
  | .corr => true
  | .commit => true
  | .faulted => true

end Sys2Proof
end

