-- ==== Sys2Proof/Decode.lean ====
section
/-! DEFINITION. The decoder and, after it, the encoder, both written from the maps of R59 and R60. -/

namespace Sys2Proof

/-! ### Fields -/

/-- `OP = cmd[64]` (R56). -/
def cmdOp (w : CmdWord) : BitVec 1 :=
  w.extractLsb' 64 1

/-- `DATA = cmd[63:0]`, as it stands (R56, R58). -/
def cmdData (w : CmdWord) : Word :=
  w.extractLsb' 0 64

/-- The code of a phase (R27). -/
def phaseCode : Phase → PhaseCode
  | .idle => 0#3
  | .mul => 1#3
  | .split => 2#3
  | .recomb => 3#3
  | .precorr => 4#3
  | .corr => 5#3
  | .commit => 6#3
  | .faulted => 7#3

/-- The phase of a code (R27, R60: all eight codes are assigned). -/
def phaseOfCode (c : PhaseCode) : Phase :=
  match c.toNat with
  | 0 => .idle
  | 1 => .mul
  | 2 => .split
  | 3 => .recomb
  | 4 => .precorr
  | 5 => .corr
  | 6 => .commit
  | _ => .faulted

/-- The code of a fault cause (R29, R120). -/
def causeCode : Cause → BitVec 2
  | .none => 0#2
  | .seedRange => 1#2
  | .unseeded => 2#2
  | .corrBound => 3#2

/-! ### Decoding -/

/-- The command map (R59): `OP` alone selects the row. -/
def decodeCmd (w : CmdWord) : Instr :=
  if cmdOp w = 0#1 then .seed (cmdData w) else .step (cmdData w)

/-- What the sequencer is at in a phase (R60). -/
def instrOfPhase : Phase → Instr
  | .idle => .idle
  | .mul => .mul
  | .split => .split
  | .recomb => .recomb
  | .precorr => .precorr
  | .corr => .corr
  | .commit => .commit
  | .faulted => .faulted

/-- The phase map (R60). -/
def decodePhase (c : PhaseCode) : Instr :=
  instrOfPhase (phaseOfCode c)

/-- The decoder: total, since every one of the 2^65 command words and all eight phase codes are assigned (R59,
R60, R62). -/
def decode : CodeWord → Instr
  | .cmd w => decodeCmd w
  | .ph c => decodePhase c

/-- Why a number is no word of a format. -/
inductive Reject where
  /-- It needs more bits than the format's fixed length (R56, R63). -/
  | tooWide (f : Format)
deriving DecidableEq, Repr

/-- A number taken as a word of a format, refused by name when it does not fit. -/
def readWord (f : Format) (w : Nat) : Except Reject CodeWord :=
  if f.fits w then
    match f with
    | .cmd => .ok (.cmd (BitVec.ofNat 65 w))
    | .ph => .ok (.ph (BitVec.ofNat 3 w))
  else .error (.tooWide f)

/-- The format of an opcode table row, from its width in whole bytes: a phase code takes one byte, a command word
nine. -/
def formatOfBits (nbits : Nat) : Format :=
  if nbits ≤ 8 then .ph else .cmd

/-- A table row's bits as a word of its format. -/
def tableWord (nbits w : Nat) : Except Reject CodeWord :=
  readWord (formatOfBits nbits) w

/-- The instruction the decoder reads from a table row's bits. -/
def decodeTableWord (nbits w : Nat) : Option Instr :=
  match tableWord nbits w with
  | .ok c => some (decode c)
  | .error _ => none

/-! ### Encoding -/

/-- A command word from its fields (R56). -/
def cmdWord (op : BitVec 1) (data : Word) : CmdWord :=
  op ++ data

/-- The encoder (R59, R60). -/
def encode : Instr → CodeWord
  | .seed v => .cmd (cmdWord 0#1 v)
  | .step d => .cmd (cmdWord 1#1 d)
  | .idle => .ph 0#3
  | .mul => .ph 1#3
  | .split => .ph 2#3
  | .recomb => .ph 3#3
  | .precorr => .ph 4#3
  | .corr => .ph 5#3
  | .commit => .ph 6#3
  | .faulted => .ph 7#3

/-! ### The opcode maps as rows -/

/-- A row of R59 or R60: a word `w` selects the row when `w AND mask = match`. -/
structure MapRow where
  format : Format
  matchBits : Nat
  maskBits : Nat
deriving DecidableEq, Repr

/-- The row of an instruction in the maps of R59 and R60. -/
def mapRow : Instr → MapRow
  | .seed _ => { format := .cmd, matchBits := 0x00000000000000000, maskBits := 0x10000000000000000 }
  | .step _ => { format := .cmd, matchBits := 0x10000000000000000, maskBits := 0x10000000000000000 }
  | .idle => { format := .ph, matchBits := 0b000, maskBits := 0b111 }
  | .mul => { format := .ph, matchBits := 0b001, maskBits := 0b111 }
  | .split => { format := .ph, matchBits := 0b010, maskBits := 0b111 }
  | .recomb => { format := .ph, matchBits := 0b011, maskBits := 0b111 }
  | .precorr => { format := .ph, matchBits := 0b100, maskBits := 0b111 }
  | .corr => { format := .ph, matchBits := 0b101, maskBits := 0b111 }
  | .commit => { format := .ph, matchBits := 0b110, maskBits := 0b111 }
  | .faulted => { format := .ph, matchBits := 0b111, maskBits := 0b111 }

/-- The format of an encoded word. -/
def CodeWord.format : CodeWord → Format
  | .cmd _ => .cmd
  | .ph _ => .ph

/-- The number an encoded word is. -/
def CodeWord.number : CodeWord → Nat
  | .cmd w => w.toNat
  | .ph c => c.toNat

/-- Does the word select the row (R59: `w AND mask = match`)? -/
def MapRow.selects (row : MapRow) (w : CodeWord) : Bool :=
  decide (w.format = row.format ∧ w.number &&& row.maskBits = row.matchBits)

end Sys2Proof
end

