-- ==== Sys2Proof/Machine/State.lean ====
section
/-! DEFINITION. The state of the block: the tuple of R20, the levels the host drives on the input ports (R41), and
the index of the free values. Plain data throughout. -/

namespace Sys2Proof.Machine

open Sys2Proof

/-- Why a step could stop. There is no constructor: the three faults of R120 are taken inside the machine, as next
states, by the fault entry of R126, and R132 says that no other condition faults. So no step of this model stops
with a fault, and the type says so (safe: nothing is left out behind it). -/
inductive Fault : Type
deriving DecidableEq, Repr

/-- Why an instruction could be without a meaning. -/
inductive Refusal where
  /-- Raised by an arm of `exec` whose instruction has no meaning yet; no arm of this model raises it. Safe. -/
  | notModelled (mnemonic : String)
deriving DecidableEq, Repr

/-- The levels of the three input ports during one turn (R41). -/
structure PortsIn where
  /-- The reset event occurs in this turn (R140). The event, not the signal's level (D17): kind and polarity of the
  signal are the OPEN `Config.resetKind`. -/
  reset : Bool
  /-- The host presents a command word on `cmd`. -/
  cmdValid : Bool
  /-- The command word. -/
  cmd : CmdWord
deriving DecidableEq, Repr

/-- A turn in which the host does nothing: the NOP of R71. -/
def PortsIn.quiet : PortsIn :=
  { reset := false, cmdValid := false, cmd := 0#65 }

/-- The state of one instance of the block (R20), with what the host will drive. -/
structure State where
  /-- `X`, the generator state (R21). -/
  x : Word
  /-- `P`, the product (R22). -/
  p : BitVec 128
  /-- `HI`, the more significant half of the product (R23). -/
  hi : Word
  /-- `LO`, the less significant half of the product (R23). -/
  lo : Word
  /-- `R`, the recombined value, 71 bits (R24). -/
  r : BitVec 71
  /-- `K`, the pre-correction multiplier, two's complement (R25). -/
  k : BitVec 8
  /-- `CNT`, the correction loop's count (R26). -/
  cnt : BitVec 2
  /-- `PHASE`, the sequencer's position (R27). -/
  phase : Phase
  /-- `SEEDED` (R28). -/
  seeded : Bool
  /-- `FAULT`, sticky (R29). -/
  fault : Bool
  /-- `CAUSE` (R29). -/
  cause : Cause
  /-- The input ports' levels in the coming turns, the nearest first; a turn not listed is quiet (log entry 2). -/
  inputs : List PortsIn
  /-- The model's own: how many reset events have happened, the index of the free values (log entry 3). -/
  resets : Nat
deriving DecidableEq, Repr

/-- The machine right after reset (R35, R141): IDLE, not seeded, no fault. The spec leaves `X`, `P`, `HI`, `LO`,
`R`, `K`, `CNT` unspecified; the zeros here are the model's (log entry 1, DESIGN CHOICE). The host drives
nothing. -/
def State.reset : State :=
  { x := 0#64, p := 0#128, hi := 0#64, lo := 0#64, r := 0#71, k := 0#8, cnt := 0#2,
    phase := .idle, seeded := false, fault := false, cause := .none,
    inputs := [], resets := 0 }

end Sys2Proof.Machine
end

