-- ==== Sys2Proof/Machine/Flags.lean ====
section
/-! DEFINITION. The status flags, the status word and the output ports: views of the state that hold nothing of
their own (R30, R41). -/

namespace Sys2Proof.Machine

open Sys2Proof

/-- `READY`, the port `cmd_ready`: `PHASE = 0` and `FAULT = 0` (R30). -/
def State.ready (s : State) : Bool :=
  decide (s.phase = .idle) && !s.fault

/-- Is the code of the phase one of 1 to 6? -/
def phaseBusy : Phase → Bool
  | .idle => false
  | .mul => true
  | .split => true
  | .recomb => true
  | .precorr => true
  | .corr => true
  | .commit => true
  | .faulted => false

/-- `BUSY`, the port `busy`: `PHASE` is 1 to 6 (R30). -/
def State.busy (s : State) : Bool :=
  phaseBusy s.phase

/-- The status word (R30): bit 0 READY, bit 1 BUSY, bit 2 VALID, bit 3 FAULT, bits 5:4 CAUSE. -/
def State.status (s : State) : BitVec 6 :=
  causeCode s.cause ++ BitVec.ofBool s.fault ++ BitVec.ofBool s.seeded
    ++ BitVec.ofBool s.busy ++ BitVec.ofBool s.ready

/-- The output ports (R41). -/
structure PortsOut where
  cmdReady : Bool
  xOut : Word
  xValid : Bool
  busy : Bool
  fault : Bool
  cause : BitVec 2
deriving DecidableEq, Repr

/-- READ: what the host samples (R41, R49, R76). Sampling changes nothing (R44). `xOut` always equals `X`; the host
may use it only when `xValid` is 1 (R49). -/
def State.read (s : State) : PortsOut :=
  { cmdReady := s.ready, xOut := s.x, xValid := s.seeded, busy := s.busy,
    fault := s.fault, cause := causeCode s.cause }

end Sys2Proof.Machine
end

