-- ==== Sys2Proof/Machine/Ops.lean ====
section
/-! DEFINITION. The shared operations: control transfer, fault entry and the reset event that alone leaves it, the
conditions under which a command is accepted or a micro-operation happens. -/

namespace Sys2Proof.Machine

open Sys2Proof

/-- `PHASE <- p`, the control transfer (R7). -/
def State.goto (s : State) (p : Phase) : State :=
  { s with phase := p }

/-- Fault entry, `raise Fault(c)` (R126): `FAULT`, `CAUSE` and `PHASE`, and nothing else. -/
def State.raise (s : State) (c : Cause) : State :=
  { s with fault := true, cause := c, phase := .faulted }

/-- The reset event (R140, R142), the only way out of a fault (R128). The unspecified registers get free values
(log entry 3). -/
def State.resetEvent (s : State) : State :=
  { s with
    phase := .idle, seeded := false, fault := false, cause := .none,
    x := Config.resetX s.resets, p := Config.resetP s.resets,
    hi := Config.resetHi s.resets, lo := Config.resetLo s.resets,
    r := Config.resetR s.resets, k := Config.resetK s.resets, cnt := Config.resetCnt s.resets,
    resets := s.resets + 1 }

/-- A command's effect in its accept event: when the block is not ready the command is not taken and has no effect
at all (R70). -/
def State.accept (s : State) (effect : State → State) : State :=
  if s.ready then effect s else s

/-- Does the sequencer have the step of this phase (R80: `PHASE` holds its code and `FAULT = 0`)? -/
def State.at (s : State) (p : Phase) : Bool :=
  decide (s.phase = p) && !s.fault

/-- A micro-operation's effect: the sequencer has its step exactly when `PHASE` holds its code and `FAULT = 0`;
else nothing happens (R80). -/
def State.perform (s : State) (p : Phase) (effect : State → State) : State :=
  if s.at p then effect s else s

end Sys2Proof.Machine
end

