-- ==== Sys2Proof/Machine/Commands.lean ====
section
/-! DEFINITION. The two host commands (R72, R73). -/

namespace Sys2Proof.Machine

open Sys2Proof

/-- SEED `v` (R72): `X` and `SEEDED` when `v < M`, else the SeedRange fault with neither written (R121). A command
turned away has no effect (R70). -/
def execSeed (v : Word) (s : State) : Host.Outcome State Fault Refusal :=
  .next <| s.accept fun s =>
    if seedInRange v then { s with x := v, seeded := true, phase := .idle } else s.raise .seedRange

/-- STEP (R73): the sequencer starts at MUL when `SEEDED = 1`, else the Unseeded fault (R122). `DATA` has no effect
whatever (R62). A command turned away has no effect (R70). -/
def execStep (_data : Word) (s : State) : Host.Outcome State Fault Refusal :=
  .next <| s.accept fun s =>
    if s.seeded then s.goto .mul else s.raise .unseeded

end Sys2Proof.Machine
end

