-- ==== Sys2Proof/Machine/Sequencer.lean ====
section
/-! DEFINITION. The sequencer's micro-operations and the two phases in which it has no step (R81 to R89). -/

namespace Sys2Proof.Machine

open Sys2Proof

/-- IDLE (R81): the sequencer does nothing; with no command accepted this is the NOP of R71. -/
def execIdle (s : State) : Host.Outcome State Fault Refusal :=
  .next s

/-- MUL (R82): `P <- A * X`, exact. -/
def execMul (s : State) : Host.Outcome State Fault Refusal :=
  .next <| s.perform .mul fun s =>
    { s with p := product Config.A s.x, phase := .split }

/-- SPLIT (R84): `HI <- P[127:64]`, `LO <- P[63:0]`. -/
def execSplit (s : State) : Host.Outcome State Fault Refusal :=
  .next <| s.perform .split fun s =>
    { s with hi := productHi s.p, lo := productLo s.p, phase := .recomb }

/-- RECOMB (R85): `R <- LO + 59 * HI`. -/
def execRecomb (s : State) : Host.Outcome State Fault Refusal :=
  .next <| s.perform .recomb fun s =>
    { s with r := recombine s.hi s.lo, phase := .precorr }

/-- PRECORR (R86): `K <- k`; `R <- R - k * M` when `0 < k < 100`; `CNT <- 0`. -/
def execPrecorr (s : State) : Host.Outcome State Fault Refusal :=
  .next <| s.perform .precorr fun s =>
    { s with k := preKReg s.r, r := preCorrect s.r, cnt := 0#2, phase := .corr }

/-- CORR (R87): one test of the loop condition; a subtraction, or the CorrBound fault when three have been made
(R123), or the end of the loop. -/
def execCorr (s : State) : Host.Outcome State Fault Refusal :=
  .next <| s.perform .corr fun s =>
    if atLeastM s.r then
      if s.cnt.toNat = Config.CEIL then s.raise .corrBound
      else { s with r := subtractM s.r, cnt := s.cnt + 1#2, phase := .corr }
    else s.goto .commit

/-- COMMIT (R88): `X <- R[63:0]`. -/
def execCommit (s : State) : Host.Outcome State Fault Refusal :=
  .next <| s.perform .commit fun s =>
    { s with x := lowerPart s.r, phase := .idle }

/-- FAULTED (R89): no step; every register keeps its value, until reset. -/
def execFaulted (s : State) : Host.Outcome State Fault Refusal :=
  .next s

end Sys2Proof.Machine
end

