-- ==== Sys2Proof/Machine/Dispatch.lean ====
section
/-! DEFINITION. What each instruction does: one arm per constructor. -/

namespace Sys2Proof.Machine

def exec (i : Instr) (s : State) : Host.Outcome State Fault Refusal :=
  match i with
  | .seed data => Sys2Proof.Machine.execSeed data s
  | .step data => Sys2Proof.Machine.execStep data s
  | .idle => Sys2Proof.Machine.execIdle s
  | .mul => Sys2Proof.Machine.execMul s
  | .split => Sys2Proof.Machine.execSplit s
  | .recomb => Sys2Proof.Machine.execRecomb s
  | .precorr => Sys2Proof.Machine.execPrecorr s
  | .corr => Sys2Proof.Machine.execCorr s
  | .commit => Sys2Proof.Machine.execCommit s
  | .faulted => Sys2Proof.Machine.execFaulted s

end Sys2Proof.Machine
end

