-- ==== Sys2Proof/Machine/Fetch.lean ====
section
/-! DEFINITION. Which event a turn brings (log entry 4): the levels of the input ports, the word that is read, and
where a word is placed for the next step. Nothing is fetched from a memory (R48): a command word comes from the
port `cmd`, a phase code from `PHASE`. -/

namespace Sys2Proof.Machine

open Sys2Proof

/-- The input ports in this turn; a turn not listed is quiet. -/
def State.ports (s : State) : PortsIn :=
  s.inputs.headD PortsIn.quiet

/-- This turn is used up. -/
def State.nextTurn (s : State) : State :=
  { s with inputs := s.inputs.tail }

/-- `accept(cmd)` is enabled: `cmd_valid = 1`, `PHASE = 0` and `FAULT = 0` (R70). -/
def State.acceptEnabled (s : State) : Bool :=
  s.ports.cmdValid && s.ready

/-- The word of this turn: the command word when one is accepted, else the phase code (R70, R80). -/
def State.fetch (s : State) : CodeWord :=
  if s.acceptEnabled then .cmd s.ports.cmd else .ph (phaseCode s.phase)

/-- The ports in this turn replaced by others. -/
def State.drive (s : State) (i : PortsIn) : State :=
  { s with inputs := i :: s.inputs.tail }

/-- The word placed where the next step reads it: a command word on `cmd`, presented to a ready block; a phase code
in `PHASE`, with `FAULT` as that phase has it and no reset and no command in this turn. -/
def State.place (s : State) : CodeWord → State
  | .cmd w =>
    { s.drive { reset := false, cmdValid := true, cmd := w } with phase := .idle, fault := false }
  | .ph c =>
    { s.drive { s.ports with reset := false, cmdValid := false } with
      phase := phaseOfCode c, fault := decide (phaseOfCode c = .faulted) }

end Sys2Proof.Machine
end

