-- ==== Sys2Proof/Machine/Step.lean ====
section
/-! DEFINITION. One step: one turn of the host and the one event it brings. -/

namespace Sys2Proof.Machine

open Sys2Proof

/-- One turn. A reset wins over everything (R125, D27); else a ready block takes the command presented to it, and
a block that takes none does what its phase says (R70, R80). -/
def step (s : State) : Host.Outcome State Fault Refusal :=
  if s.ports.reset then .next s.nextTurn.resetEvent
  else exec (decode s.fetch) s.nextTurn

/-- `s` with a table row's word placed where `step` reads its next word; a number that is no word of the row's
format is not placed. -/
def State.withFetchWord (s : State) (nbits w : Nat) : State :=
  match tableWord nbits w with
  | .ok c => s.place c
  | .error _ => s

end Sys2Proof.Machine
end

