-- ==== Sys2Proof/Machine/HostProgram.lean ====
section
/-! DEFINITION. The written syntax of host programs and its pseudo-instructions (R64, R65), and the turns a program
becomes (log entry 10). -/

namespace Sys2Proof.Machine

open Sys2Proof

/-- A line of a host program (R64), or the NOP of R65. Values are the written numbers. -/
inductive HostLine where
  | seed (value : Nat)
  | step
  | reset
  | read
  | nop
deriving DecidableEq, Repr

/-- What a host program is made of: lines and the other pseudo-instructions of R65. -/
inductive HostAction where
  | line (l : HostLine)
  | stepN (n : Nat)
  | fastStep (value : Nat)
  | driver
deriving DecidableEq, Repr

/-- A written value is a number from 0 to 2^64 - 1 (R64). -/
def HostLine.wellFormed : HostLine → Bool
  | .seed v => decide (v < 2 ^ 64)
  | .step => true
  | .reset => true
  | .read => true
  | .nop => true

/-- The expansion into lines (R65); a line stands for itself. -/
def HostAction.expand : HostAction → List HostLine
  | .line l => [l]
  | .stepN n => List.replicate n .step
  | .fastStep v => [.seed v, .step, .read]
  | .driver => [.reset, .seed Config.SEED0] ++ List.replicate Config.NSTEPS .step ++ [.read]

/-- An action is well formed when its expansion's lines are. -/
def HostAction.wellFormed (a : HostAction) : Bool :=
  a.expand.all HostLine.wellFormed

/-- A turn in which the host presents a command word. -/
def presentTurn (w : CmdWord) : PortsIn :=
  { reset := false, cmdValid := true, cmd := w }

/-- A turn with the reset event. -/
def resetTurn : PortsIn :=
  { reset := true, cmdValid := false, cmd := 0#65 }

/-- The turns of a STEP: it is presented, in its canonical spelling, and the host waits for `cmd_ready = 1`, at most
eight turns (R148: a STEP takes at most eight sequencer steps). -/
def stepTurns : List PortsIn :=
  presentTurn (cmdWord 1#1 0#64) :: List.replicate 8 PortsIn.quiet

/-- The turns of one line. READ samples the ports and takes no turn (R64, R76). -/
def HostLine.turns : HostLine → List PortsIn
  | .seed v => [presentTurn (cmdWord 0#1 (BitVec.ofNat 64 v))]
  | .step => stepTurns
  | .reset => [resetTurn]
  | .read => []
  | .nop => [PortsIn.quiet]

/-- The turns of an action: those of its expansion's lines, in order. -/
def HostAction.turns (a : HostAction) : List PortsIn :=
  a.expand.flatMap HostLine.turns

/-- The turns of a host program. -/
def programTurns (prog : List HostAction) : List PortsIn :=
  prog.flatMap HostAction.turns

/-- The host takes up a program: its turns are what the input ports will carry. -/
def State.withProgram (s : State) (prog : List HostAction) : State :=
  { s with inputs := programTurns prog }

end Sys2Proof.Machine
end

