-- ==== Sys2Proof/Safety.lean ====
section
/-! DEFINITION. The terms claims use: the invariant of the machine, a run of turns, the absence of a reset event for some
turns, and what it is for two states to look the same to the host. -/

namespace Sys2Proof.Machine

open Sys2Proof

/-- What the working registers hold on the way through a STEP, phase by phase: the algorithm's identities (R84, R102)
and bounds (R103, R106, R107, R108). -/
def State.chain (s : State) : Prop :=
  match s.phase with
  | .idle => True
  | .mul => True
  | .split => s.p.toNat = Config.A.toNat * s.x.toNat
  | .recomb => s.hi.toNat * 2 ^ 64 + s.lo.toNat = Config.A.toNat * s.x.toNat
  | .precorr => s.r.toNat % Config.M = refStep Config.A s.x ∧ s.r.toNat < 60 * 2 ^ 64
  | .corr =>
    s.r.toNat % Config.M = refStep Config.A s.x ∧
      s.r.toNat + s.cnt.toNat * Config.M < 2 ^ 65 + 3422
  | .commit => s.r.toNat = refStep Config.A s.x
  | .faulted => True

/-- The invariant of the machine. -/
structure State.Inv (s : State) : Prop where
  /-- R32: whenever `SEEDED = 1`, `X < M`. -/
  range : s.seeded = true → s.x.toNat < Config.M
  /-- R126: `FAULT` is set together with `PHASE = 7`. -/
  faulted : s.fault = true ↔ s.phase = .faulted
  /-- R62, R126: a fault has a cause, and only a fault has one. -/
  caused : s.cause = .none ↔ s.fault = false
  /-- R107: the CorrBound fault is unreachable. -/
  inBound : s.cause ≠ .corrBound
  /-- R73, R28: a STEP in progress was accepted with `SEEDED = 1`. -/
  busySeeded : s.busy = true → s.seeded = true
  /-- The working registers on the way through a STEP. -/
  onChain : s.chain

/-- `n` turns, one step each, stopping where a step stops. -/
def run : Nat → State → Host.Outcome State Fault Refusal
  | 0, s => .next s
  | n + 1, s =>
    match step s with
    | .next t => run n t
    | .fault f => .fault f
    | .refused f => .refused f

/-- No reset event in the next `n` turns. -/
def State.noResetIn (s : State) (n : Nat) : Prop :=
  ∀ i ∈ s.inputs.take n, i.reset = false

/-- Two states the host cannot tell apart: they differ at most in the working registers (R36). -/
def State.sameToHost (s t : State) : Prop :=
  s.x = t.x ∧ s.phase = t.phase ∧ s.seeded = t.seeded ∧ s.fault = t.fault ∧ s.cause = t.cause ∧
    s.inputs = t.inputs ∧ s.resets = t.resets

end Sys2Proof.Machine
end

