-- ==== Sys2Proof/Certificates/Slice0/Obligations.lean ====
section
/-! DEFINITION. The statements for the provers. Each is a statement about the machine taken from the numbered rules
of spec/. No statement rests on what a free value (Config.resetX and its like) or an OPEN parameter is, nor on the
zeros of State.reset. A statement that rests on a choice of the model's says so and names the log entry; the words
"log entry 4" stand for: one turn of the host brings exactly one event, and an enabled event is taken in that turn,
where the spec says only that it is eventually taken (R70, R80, D16). -/

open Sys2Proof Sys2Proof.Machine

/-! ### Encoding -/

/-- R66: the worked encodings, read in both directions; the third is the out-of-range seed `M`. -/
def Obligations.WorkedEncodings : Prop :=
  encode (.seed 1#64) = .cmd 0x00000000000000001#65 ∧
  decode (.cmd 0x00000000000000001#65) = .seed 1#64 ∧
  encode (.seed 18446744073709551556#64) = .cmd 0x0FFFFFFFFFFFFFFC4#65 ∧
  decode (.cmd 0x0FFFFFFFFFFFFFFC4#65) = .seed 18446744073709551556#64 ∧
  encode (.seed 18446744073709551557#64) = .cmd 0x0FFFFFFFFFFFFFFC5#65 ∧
  decode (.cmd 0x0FFFFFFFFFFFFFFC5#65) = .seed 18446744073709551557#64 ∧
  seedInRange 18446744073709551556#64 = true ∧ seedInRange 18446744073709551557#64 = false ∧
  encode (.step 0#64) = .cmd 0x10000000000000000#65 ∧
  decode (.cmd 0x10000000000000000#65) = .step 0#64 ∧
  decode (.cmd 0x1DEADBEEF00000001#65) = .step 0xDEADBEEF00000001#64

/-- R60: the phase map, all eight codes; and by `PHASE AND mask = match` a code selects the row of the instruction it
decodes to and no other. -/
def Obligations.PhaseMap : Prop :=
  decode (.ph 0b000#3) = .idle ∧ decode (.ph 0b001#3) = .mul ∧ decode (.ph 0b010#3) = .split ∧
  decode (.ph 0b011#3) = .recomb ∧ decode (.ph 0b100#3) = .precorr ∧ decode (.ph 0b101#3) = .corr ∧
  decode (.ph 0b110#3) = .commit ∧ decode (.ph 0b111#3) = .faulted ∧
  ∀ (c : PhaseCode) (i : Instr), (mapRow i).selects (.ph c) = true ↔ i = decode (.ph c)

/-- R59: every command word selects exactly one row by `w AND mask = match`, and decodes to that row's instruction
with `DATA` the low 64 bits. -/
def Obligations.CommandMap : Prop :=
  ∀ w : CmdWord,
    ((w.toNat &&& 0x10000000000000000 = 0 ∧
        decode (.cmd w) = .seed (BitVec.ofNat 64 (w.toNat % 2 ^ 64))) ∨
      (w.toNat &&& 0x10000000000000000 = 0x10000000000000000 ∧
        decode (.cmd w) = .step (BitVec.ofNat 64 (w.toNat % 2 ^ 64)))) ∧
    ∀ i, (mapRow i).selects (.cmd w) = true ↔ mapRow i = mapRow (decode (.cmd w))

/-- Decoding and encoding agree in both directions (from R56, R58, R59, R60), through the table's numbering of the bits
too. That `decodeTableWord` tells the format by the table's count of bits (72 for a command word, 8 for a phase code)
is the model's choice (log entry 14), not the spec's. -/
def Obligations.DecodeEncodeAgree : Prop :=
  (∀ i : Instr, i.wellFormed = true →
    decode (encode i) = i ∧
    decodeTableWord (match (encode i).format with | .cmd => 72 | .ph => 8) (encode i).number = some i) ∧
  (∀ c : CodeWord, encode (decode c) = c)

/-- From R56, R62, R63: no word is illegal; a number is refused exactly when it does not fit the one fixed length of
its format. That a row of at most eight bits is taken as a phase code and a longer one as a command word is the
model's choice (log entry 14). -/
def Obligations.OnlyTooWideRefused : Prop :=
  ∀ nbits w : Nat,
    decodeTableWord nbits w = none ↔
      (nbits ≤ 8 ∧ 2 ^ 3 ≤ w) ∨ (8 < nbits ∧ 2 ^ 65 ≤ w)

/-! ### A step -/

/-- A step without a reset event runs the instruction that the word of this turn decodes to. Which word that is rests on
the enabling conditions of R70 and R80: the command word exactly when a command is presented to a ready block, else the
phase code. That the enabled event is taken in that very turn is the model's choice (log entry 4): R70 says only that
the block may take the word and eventually does, and R80 that the sequencer eventually takes its step. Around `exec`
the step uses up the turn, which is the model's own (log entry 2). -/
def Obligations.StepRunsDecoded : Prop :=
  ∀ s : State, s.ports.reset = false →
    step s = exec (decode s.fetch) s.nextTurn ∧
    s.fetch = (if s.ports.cmdValid = true ∧ s.phase = .idle ∧ s.fault = false
      then .cmd s.ports.cmd else .ph (phaseCode s.phase)) ∧
    s.nextTurn = { s with inputs := s.inputs.tail }

/-- A table row's word placed for the next step is what the next step runs (from R70, R80). Where it is placed is the
model's choice (log entry 13). -/
def Obligations.PlacedWordRuns : Prop :=
  ∀ (s : State) (nbits w : Nat) (i : Instr), decodeTableWord nbits w = some i →
    step (s.withFetchWord nbits w) = exec i (s.withFetchWord nbits w).nextTurn

/-- From R70, R132: a block that is not ready takes no command: what the host presents makes no difference. -/
def Obligations.CommandIgnoredWhenNotReady : Prop :=
  ∀ (s : State) (i j : PortsIn), s.ready = false → i.reset = j.reset →
    step (s.drive i) = step (s.drive j)

/-- From R71: with no command and no reset event, a ready block keeps every register; that this is a turn of its own
is the model's (log entry 4). -/
def Obligations.NopKeepsEverything : Prop :=
  ∀ s : State, s.ready = true → s.ports.reset = false → s.ports.cmdValid = false →
    step s = .next { s with inputs := s.inputs.tail }

/-- No instruction and no step stops the machine from outside: each answers a next state, whatever the state. That
fault entry, and IDLE and FAULTED too, are next states and not the outcome `fault` is the model's choice (log entry
11); that there are no faults but the three of R120 is R132. -/
def Obligations.EveryStepAnswers : Prop :=
  (∀ (i : Instr) (s : State), ∃ t, exec i s = .next t) ∧ ∀ s : State, ∃ t, step s = .next t

/-! ### Reset -/

/-- R140: the reset event, at any time and in any phase. Nothing is said of `X` and the working registers. -/
def Obligations.ResetEvent : Prop :=
  ∀ s : State, s.ports.reset = true →
    ∃ t, step s = .next t ∧ t.phase = .idle ∧ t.seeded = false ∧ t.fault = false ∧ t.cause = .none ∧
      t.status = 0b000001#6 ∧ t.inputs = s.inputs.tail

/-- From R142, R125: a reset event abandons whatever is in progress and wins over a command presented with
it: what follows depends on nothing but the model's index of free values and the later turns. That `X` and the working
registers come out equal, where R140 leaves them unspecified, is the model's choice (log entry 3): its free values
are equal at equal counts of resets. -/
def Obligations.ResetForgets : Prop :=
  ∀ (s t : State), s.ports.reset = true → t.ports.reset = true → s.inputs.tail = t.inputs.tail →
    s.resets = t.resets → step s = step t

/-- R35: the values after reset that the spec gives. -/
def Obligations.ResetValues : Prop :=
  State.reset.phase = .idle ∧ State.reset.seeded = false ∧ State.reset.fault = false ∧
    State.reset.cause = .none ∧ State.reset.status = 0b000001#6

/-! ### Commands -/

/-- From R72: SEED in range, accepted by a ready block, writes `X` and `SEEDED` and nothing else, whether or not the
block was seeded; the block is ready again at once. -/
def Obligations.SeedLoads : Prop :=
  ∀ (s : State) (v : Word), s.phase = .idle → s.fault = false → v.toNat < Config.M →
    exec (.seed v) s = .next { s with x := v, seeded := true, phase := .idle }

/-- R121: SEED with `DATA >= M`, accepted by a ready block, takes the SeedRange fault and writes neither `X` nor
`SEEDED` nor anything else. -/
def Obligations.SeedOutOfRangeFaults : Prop :=
  ∀ (s : State) (v : Word), s.phase = .idle → s.fault = false → Config.M ≤ v.toNat →
    exec (.seed v) s = .next { s with fault := true, cause := .seedRange, phase := .faulted }

/-- From R73, R62: STEP accepted by a ready, seeded block, whatever its `DATA`: the sequencer starts at MUL and
nothing else changes. -/
def Obligations.StepStartsAtMul : Prop :=
  ∀ (s : State) (d : Word), s.phase = .idle → s.fault = false → s.seeded = true →
    exec (.step d) s = .next { s with phase := .mul }

/-- R122: STEP accepted with `SEEDED = 0` takes the Unseeded fault; what `X` holds makes no difference. -/
def Obligations.StepUnseededFaults : Prop :=
  ∀ (s : State) (d : Word), s.phase = .idle → s.fault = false → s.seeded = false →
    exec (.step d) s = .next { s with fault := true, cause := .unseeded, phase := .faulted }

/-- From R70: a command turned away has no effect at all. -/
def Obligations.CommandTurnedAway : Prop :=
  ∀ (s : State) (v : Word), ¬(s.phase = .idle ∧ s.fault = false) →
    exec (.seed v) s = .next s ∧ exec (.step v) s = .next s

/-! ### Micro-operations -/

/-- From R82: MUL writes the exact product, all 128 bits. -/
def Obligations.MulExact : Prop :=
  ∀ s : State, s.phase = .mul → s.fault = false →
    ∃ p : BitVec 128, p.toNat = Config.A.toNat * s.x.toNat ∧
      exec .mul s = .next { s with p := p, phase := .split }

/-- From R84: SPLIT writes the two halves of the product. -/
def Obligations.SplitHalves : Prop :=
  ∀ s : State, s.phase = .split → s.fault = false →
    ∃ hi lo : Word, hi.toNat = s.p.toNat / 2 ^ 64 ∧ lo.toNat = s.p.toNat % 2 ^ 64 ∧
      s.p.toNat = hi.toNat * 2 ^ 64 + lo.toNat ∧
      exec .split s = .next { s with hi := hi, lo := lo, phase := .recomb }

/-- From R85: RECOMB writes `LO + 59 * HI` without wrapping. -/
def Obligations.RecombExact : Prop :=
  ∀ s : State, s.phase = .recomb → s.fault = false →
    ∃ r : BitVec 71, r.toNat = s.lo.toNat + 59 * s.hi.toNat ∧ r.toNat < 60 * 2 ^ 64 ∧
      exec .recomb s = .next { s with r := r, phase := .precorr }

/-- From R86: PRECORR, for every 71-bit `R`: the test passes exactly when `2 <= q <= 100`, and then exactly `k * M` is
taken off, without underflow. -/
def Obligations.PrecorrEffect : Prop :=
  ∀ s : State, s.phase = .precorr → s.fault = false →
    ∃ (k : BitVec 8) (r : BitVec 71),
      k.toInt = (s.r.toNat / 2 ^ 64 : Nat) - 1 ∧
      (2 ≤ s.r.toNat / 2 ^ 64 ∧ s.r.toNat / 2 ^ 64 ≤ 100 →
        r.toNat + (s.r.toNat / 2 ^ 64 - 1) * Config.M = s.r.toNat ∧
        r.toNat = 2 ^ 64 + s.r.toNat % 2 ^ 64 + 59 * (s.r.toNat / 2 ^ 64 - 1)) ∧
      (¬(2 ≤ s.r.toNat / 2 ^ 64 ∧ s.r.toNat / 2 ^ 64 ≤ 100) → r = s.r) ∧
      exec .precorr s = .next { s with k := k, r := r, cnt := 0#2, phase := .corr }

/-- From R87: CORR, for every `R` and `CNT`: a subtraction, the CorrBound fault, or the end of the loop. -/
def Obligations.CorrEffect : Prop :=
  ∀ s : State, s.phase = .corr → s.fault = false →
    (Config.M ≤ s.r.toNat → s.cnt.toNat < 3 →
      ∃ (r : BitVec 71) (n : BitVec 2), r.toNat + Config.M = s.r.toNat ∧ n.toNat = s.cnt.toNat + 1 ∧
        exec .corr s = .next { s with r := r, cnt := n, phase := .corr }) ∧
    (Config.M ≤ s.r.toNat → s.cnt.toNat = 3 →
      exec .corr s = .next { s with fault := true, cause := .corrBound, phase := .faulted }) ∧
    (s.r.toNat < Config.M → exec .corr s = .next { s with phase := .commit })

/-- From R88: COMMIT writes `R[63:0]` to `X`, which is all of `R` where `R < M`. -/
def Obligations.CommitEffect : Prop :=
  ∀ s : State, s.phase = .commit → s.fault = false →
    ∃ x : Word, x.toNat = s.r.toNat % 2 ^ 64 ∧ (s.r.toNat < Config.M → x.toNat = s.r.toNat) ∧
      exec .commit s = .next { s with x := x, phase := .idle }

/-- From R81, R89: IDLE and FAULTED do nothing, in every state. -/
def Obligations.IdleAndFaultedDoNothing : Prop :=
  ∀ s : State, exec .idle s = .next s ∧ exec .faulted s = .next s

/-- From R80: a micro-operation happens only when `PHASE` holds its code and `FAULT = 0`; else nothing changes. -/
def Obligations.MicroOpOnlyInItsPhase : Prop :=
  ∀ (s : State) (p : Phase), phaseBusy p = true → ¬(s.phase = p ∧ s.fault = false) →
    exec (instrOfPhase p) s = .next s

/-- From R80: control transfer of the sequencer, whatever the host presents: 1 to 2 to 3 to 4 to 5, 5 to 5 while the
loop subtracts, 5 to 6 when `R < M`, 5 to 7 on the bound fault, 6 to 0. That every turn takes the step is the model's
choice (log entry 4). -/
def Obligations.SequencerOrder : Prop :=
  ∀ s : State, s.busy = true → s.fault = false → s.ports.reset = false →
    ∃ t, step s = .next t ∧
      (s.phase = .mul → t.phase = .split) ∧
      (s.phase = .split → t.phase = .recomb) ∧
      (s.phase = .recomb → t.phase = .precorr) ∧
      (s.phase = .precorr → t.phase = .corr) ∧
      (s.phase = .corr → s.r.toNat < Config.M → t.phase = .commit) ∧
      (s.phase = .corr → Config.M ≤ s.r.toNat → s.cnt.toNat < 3 → t.phase = .corr) ∧
      (s.phase = .corr → Config.M ≤ s.r.toNat → s.cnt.toNat = 3 → t.phase = .faulted) ∧
      (s.phase = .commit → t.phase = .idle)

/-! ### Frames -/

/-- From R21: `X` is written by exactly two things, an accepted SEED in range and COMMIT. -/
def Obligations.XWriters : Prop :=
  ∀ (i : Instr) (s t : State), exec i s = .next t → t.x ≠ s.x →
    (∃ v, i = .seed v ∧ v.toNat < Config.M ∧ s.ready = true ∧ t.x = v) ∨
    (i = .commit ∧ s.phase = .commit ∧ s.fault = false ∧ t.x.toNat = s.r.toNat % 2 ^ 64)

/-- From R28, for the instructions: `SEEDED` is set by an accepted SEED in range and by nothing else, and no instruction
clears it. -/
def Obligations.SeededWriters : Prop :=
  ∀ (i : Instr) (s t : State), exec i s = .next t →
    t.seeded = s.seeded ∨
      (t.seeded = true ∧ ∃ v, i = .seed v ∧ v.toNat < Config.M ∧ s.ready = true)

/-- From the table of R20: each working register is written only by the micro-operations named there, in their
phases, and no instruction touches the input turns or the index of the free values. -/
def Obligations.WorkingRegisterWriters : Prop :=
  ∀ (i : Instr) (s t : State), exec i s = .next t →
    (t.p ≠ s.p → i = .mul) ∧
    (t.hi ≠ s.hi ∨ t.lo ≠ s.lo → i = .split) ∧
    (t.r ≠ s.r → i = .recomb ∨ i = .precorr ∨ i = .corr) ∧
    (t.k ≠ s.k → i = .precorr) ∧
    (t.cnt ≠ s.cnt → i = .precorr ∨ i = .corr) ∧
    t.inputs = s.inputs ∧ t.resets = s.resets

/-- From R120, R126, R29: `FAULT` and `CAUSE` are written only by fault entry, under one of the three conditions of
R120 with that condition's cause; entry writes `FAULT`, `CAUSE`, `PHASE` and nothing else, and the block is then
neither ready nor busy. -/
def Obligations.FaultEntry : Prop :=
  ∀ (i : Instr) (s t : State), exec i s = .next t → t.fault ≠ s.fault ∨ t.cause ≠ s.cause →
    t = { s with fault := true, cause := t.cause, phase := .faulted } ∧
    t.ready = false ∧ t.busy = false ∧
    ((∃ v, i = .seed v ∧ s.ready = true ∧ Config.M ≤ v.toNat ∧ t.cause = .seedRange) ∨
     (∃ d, i = .step d ∧ s.ready = true ∧ s.seeded = false ∧ t.cause = .unseeded) ∨
     (i = .corr ∧ s.phase = .corr ∧ s.fault = false ∧ Config.M ≤ s.r.toNat ∧ s.cnt.toNat = 3 ∧
       t.cause = .corrBound))

/-- From R89, R128, R29: while `FAULT = 1`, any number of turns without a reset event leave every register as it
is. -/
def Obligations.FaultIsSticky : Prop :=
  ∀ (n : Nat) (s : State), s.fault = true → s.noResetIn n →
    run n s = .next { s with inputs := s.inputs.drop n }

/-! ### Status -/

/-- From R30: the fields of the status word, bit by bit; after reset it is `0b000001`; and in every state that meets the
invariant exactly one of READY, BUSY, FAULT is 1. -/
def Obligations.StatusWord : Prop :=
  (∀ s : State,
    (s.status.getLsbD 0 = true ↔ s.phase = .idle ∧ s.fault = false) ∧
    (s.status.getLsbD 1 = true ↔ s.phase ≠ .idle ∧ s.phase ≠ .faulted) ∧
    (s.status.getLsbD 2 = true ↔ s.seeded = true) ∧
    (s.status.getLsbD 3 = true ↔ s.fault = true) ∧
    s.status.extractLsb' 4 2 = causeCode s.cause) ∧
  State.reset.status = 0b000001#6 ∧
  ∀ s : State, s.Inv →
    (s.ready = true ∧ s.busy = false ∧ s.fault = false) ∨
    (s.ready = false ∧ s.busy = true ∧ s.fault = false) ∨
    (s.ready = false ∧ s.busy = false ∧ s.fault = true)

/-- From R49, R145: while a STEP is in progress `x_out` and `x_valid` stay as they are, and at COMMIT, in a state
that meets the invariant, `x_out` becomes the next state of the generator. That COMMIT happens in the turn that finds
the block there is the model's choice (log entry 4). -/
def Obligations.XOutDuringStep : Prop :=
  ∀ s t : State, s.busy = true → s.ports.reset = false → step s = .next t →
    (s.phase ≠ .commit → t.read.xOut = s.read.xOut ∧ t.read.xValid = s.read.xValid) ∧
    (s.phase = .commit → s.Inv →
      t.read.xOut.toNat = refStep Config.A s.read.xOut ∧ t.read.xValid = true ∧
        t.read.cmdReady = true)

/-! ### The invariant -/

/-- The invariant holds right after reset. -/
def Obligations.InvAtReset : Prop :=
  State.reset.Inv

/-- Every step keeps the invariant: R32's range of `X`, the pairing of `FAULT`, `PHASE` and `CAUSE`, the unreachable
CorrBound fault, and what the working registers hold phase by phase. -/
def Obligations.StepKeepsInv : Prop :=
  ∀ s t : State, s.Inv → step s = .next t → t.Inv

/-- From R107, R123: in a state that meets the invariant `CNT` is at most 2 in the loop, and no instruction takes the
CorrBound fault. -/
def Obligations.CorrBoundUnreachable : Prop :=
  ∀ s : State, s.Inv →
    (s.phase = .corr → s.cnt.toNat ≤ 2) ∧
    ∀ (i : Instr) (t : State), exec i s = .next t → t.cause ≠ .corrBound

/-- From R72, R110: the state 0, once seeded, stays 0 for ever: in a state that meets the invariant with `X = 0`, a
turn without a reset event and without an accepted SEED leaves `X = 0`. -/
def Obligations.ZeroStaysZero : Prop :=
  ∀ s t : State, s.Inv → s.x = 0#64 → s.ports.reset = false →
    ¬(s.ready = true ∧ s.ports.cmdValid = true ∧ cmdOp s.ports.cmd = 0#1) →
    step s = .next t → t.x = 0#64

/-! ### Arithmetic -/

/-- R108, and R92 as its case: `FastStep(a, x)` never reaches the bound fault and is `(a * x) mod M`, below `M`, for
every 64-bit `a` and `x`. -/
def Obligations.FastStepIsRefStep : Prop :=
  ∀ a x : Word, ∃ v : Word,
    fastStep a x = some v ∧ v.toNat = a.toNat * x.toNat % Config.M ∧ v.toNat < Config.M

/-- From R107: the number of loop subtractions, exactly, by `q` and `rlo`. -/
def Obligations.CorrectionCount : Prop :=
  ∀ a x : Word,
    let q := (upperPart (recombined a x)).toNat
    let rlo := (lowerPart (recombined a x)).toNat
    ∃ (v : Word) (n : Nat), fastStepCount a x = some (v, n) ∧ n ≤ 2 ∧
      (q = 0 → rlo < Config.M → n = 0 ∧ v.toNat = rlo) ∧
      (q = 0 → Config.M ≤ rlo → n = 1 ∧ v.toNat + Config.M = rlo ∧ v.toNat ≤ 58) ∧
      (1 ≤ q → rlo + 59 * q < Config.M → n = 1 ∧ v.toNat = rlo + 59 * q) ∧
      (1 ≤ q → Config.M ≤ rlo + 59 * q →
        n = 2 ∧ v.toNat + Config.M = rlo + 59 * q ∧ v.toNat ≤ 59 * q + 58)

/-- The sentence of R107 that, "With the wired `A` and `x < M`, the case `q = 0, n = 1` does not occur". Expected to
FAIL: R107's reason ("it needs `hi = 0`") overlooks a positive `HI` whose `59 * HI` carries `LO` to `M` or above; at
`x = 118055562673796743` the algorithm of R90 has `q = 0` and makes one subtraction, with the right result 51. The
table of R107 and every other rule are unaffected (see NOTES.md). -/
def Obligations.WiredQZeroNeverSubtracts : Prop :=
  ∀ x : Word, x.toNat < Config.M → (upperPart (recombined Config.A x)).toNat = 0 →
    ∃ v : Word, fastStepCount Config.A x = some (v, 0)

/-- From R101, R103, R104, R109: the bounds on `HI`, `r0`, `q` and `k`, for all 64-bit operands and for the wired
`A` with `x < M`. -/
def Obligations.RecombinedBounds : Prop :=
  (∀ a x : Word,
    (productHi (product a x)).toNat ≤ 2 ^ 64 - 2 ∧
    (recombined a x).toNat ≤ 60 * 2 ^ 64 - 119 ∧ (recombined a x).getLsbD 70 = false ∧
    (upperPart (recombined a x)).toNat ≤ 59 ∧
    -1 ≤ preK (recombined a x) ∧ preK (recombined a x) ≤ 58) ∧
  ∀ x : Word, x.toNat < Config.M →
    (productHi (product Config.A x)).toNat ≤ Config.A.toNat - 46 ∧
    (upperPart (recombined Config.A x)).toNat ≤ 45 ∧ preK (recombined Config.A x) ≤ 44

/-- R106: the value after PRECORR, case by case. -/
def Obligations.ValueAfterPrecorr : Prop :=
  ∀ a x : Word,
    let q := (upperPart (recombined a x)).toNat
    let rlo := (lowerPart (recombined a x)).toNat
    let r1 := (preCorrect (recombined a x)).toNat
    (2 ≤ q → r1 = 2 ^ 64 + rlo + 59 * (q - 1) ∧ 2 ^ 64 + 59 ≤ r1 ∧ r1 ≤ 2 ^ 65 + 3421) ∧
    (q = 1 → r1 = 2 ^ 64 + rlo ∧ 2 ^ 64 ≤ r1 ∧ r1 < 2 ^ 65) ∧
    (q = 0 → r1 = rlo ∧ r1 < 2 ^ 64) ∧
    (1 ≤ q → Config.M ≤ r1) ∧ r1 < 2 ^ 65 + 3422

/-- R83: `Mul64` gives the exact product of any two 64-bit numbers, and so the halves of the product register; the
middle sum fits 34 bits and the high sum does not overflow. -/
def Obligations.Mul64Exact : Prop :=
  ∀ a b : Word,
    (mul64 a b).1.toNat * 2 ^ 64 + (mul64 a b).2.toNat = a.toNat * b.toNat ∧
    mul64 a b = (productHi (product a b), productLo (product a b)) ∧
    (partialProducts a b).mid < 3 * 2 ^ 32 ∧
    (partialProducts a b).ll < 2 ^ 64 ∧ (partialProducts a b).lh < 2 ^ 64 ∧
    (partialProducts a b).hl < 2 ^ 64 ∧ (partialProducts a b).hh < 2 ^ 64 ∧
    (partialProducts a b).hh + slice (partialProducts a b).lh 63 32 + slice (partialProducts a b).hl 63 32 +
      slice (partialProducts a b).mid 63 32 < 2 ^ 64

/-- R114: the closed form. -/
def Obligations.ClosedForm : Prop :=
  ∀ a x : Word,
    let q := (upperPart (recombined a x)).toNat
    let rlo := (lowerPart (recombined a x)).toNat
    ∃ v : Word, fastStep a x = some v ∧
      v.toNat = rlo + 59 * q - (if Config.M ≤ rlo + 59 * q then 1 else 0) * Config.M

/-- From R112, R105: on every 71-bit `R` the loop condition can be read off the two parts of `R`, subtracting `M` is
adding 59 and taking off `2^64`, and the pre-correction needs no multiplier by `M`. -/
def Obligations.NoWideArithmeticNeeded : Prop :=
  ∀ r : BitVec 71,
    (atLeastM r = true ↔ upperPart r ≠ 0#7 ∨ 0xFFFFFFFFFFFFFFC5 ≤ (lowerPart r).toNat) ∧
    (atLeastM r = true → (subtractM r).toNat = r.toNat + 59 - 2 ^ 64) ∧
    (1 ≤ preK r → preK r < 100 →
      ((preCorrect r).toNat : Int) = r.toNat - preK r * 2 ^ 64 + 59 * preK r)

/-- From R113: a register of `n >= 7` bits that computed `q - 1` modulo `2^n` would decide the pre-correction's test
as the signed `k` does, for every 71-bit `R`; for `q <= 59` both pass exactly when `q >= 2`. -/
def Obligations.UnsignedKAgrees : Prop :=
  ∀ (n : Nat) (r : BitVec 71), 7 ≤ n →
    let q := (upperPart r).toNat
    let k := (q + 2 ^ n - 1) % 2 ^ n
    (0 < k ∧ k < 100 ↔ 0 < preK r ∧ preK r < Config.KLIM) ∧
    (q ≤ 59 → (0 < preK r ∧ preK r < Config.KLIM ↔ 2 ≤ q))

/-! ### Whole transactions -/

/-- From R74: a STEP accepted with `SEEDED = 1` and `X = x0 < M` by a ready block. After the accept event and exactly
`6 + n` sequencer steps, `n` the number of loop subtractions and at most 2, and busy all the while, the block is ready
again with `X = FastStep(A, x0) = (A * x0) mod M`, below `M`. That the accept event and each sequencer step is one turn
of the run, the STEP being taken in the turn that presents it, is the model's choice (log entry 4). -/
def Obligations.StepTransaction : Prop :=
  ∀ (s : State) (d : Word), s.phase = .idle → s.fault = false → s.seeded = true →
    s.x.toNat < Config.M → s.ports = presentTurn (cmdWord 1#1 d) → s.noResetIn 9 →
    ∃ (v : Word) (n : Nat) (t : State), fastStepCount Config.A s.x = some (v, n) ∧ n ≤ 2 ∧
      run (1 + (6 + n)) s = .next t ∧
      t.x = v ∧ t.x.toNat = Config.A.toNat * s.x.toNat % Config.M ∧ t.x.toNat < Config.M ∧
      t.seeded = true ∧ t.fault = false ∧ t.phase = .idle ∧ t.cause = s.cause ∧
      t.inputs = s.inputs.drop (1 + (6 + n)) ∧
      ∀ j, 1 ≤ j → j < 1 + (6 + n) →
        ∃ u, run j s = .next u ∧ u.busy = true ∧ u.x = s.x

/-- From R80, R149, R148: in a state that meets the invariant a STEP in progress ends, whatever the host presents
meanwhile: after at most eight turns without a reset event the block is ready, with the next state of the generator
in `X`. The bound counts sequencer steps (R148: at most `6 + 2`); that each is one turn, so that the bound is one in
turns of the host, is the model's choice (log entry 4), where R80 says only "eventually". -/
def Obligations.BusyEnds : Prop :=
  ∀ s : State, s.Inv → s.busy = true → s.noResetIn 8 →
    ∃ (n : Nat) (t : State), 1 ≤ n ∧ n ≤ 8 ∧ run n s = .next t ∧
      t.ready = true ∧ t.x.toNat = refStep Config.A s.x ∧ t.seeded = true ∧ t.cause = s.cause

/-- From R70: a command held while the block is busy has no effect until the block is ready again, and then it is
taken. That it is taken in the very first turn in which the block is ready, and the bound in turns, are the model's
choice (log entry 4): R70 says that it may be taken later and eventually is, and gives no bound. -/
def Obligations.HeldCommandIsTaken : Prop :=
  ∀ (s : State) (w : CmdWord) (rest : List PortsIn), s.Inv → s.busy = true →
    s.inputs = List.replicate 9 (presentTurn w) ++ rest →
    ∃ (n : Nat) (t : State), 1 ≤ n ∧ n ≤ 8 ∧ run n s = .next t ∧ t.ready = true ∧
      t.x.toNat = refStep Config.A s.x ∧ step t = exec (decode (.cmd w)) t.nextTurn

/-- From R95: `n` STEPs, each waited for, from `X = x0 < M` give `X = (A^n * x0) mod M`. The nine turns of a STEP, one
that presents it and eight that wait, are the model's (log entry 10), and that they are enough rests on one event a
turn (log entry 4). -/
def Obligations.IteratedSteps : Prop :=
  ∀ (n : Nat) (s : State), s.phase = .idle → s.fault = false → s.seeded = true →
    s.x.toNat < Config.M → s.inputs = (List.replicate n stepTurns).flatten →
    ∃ t, run (9 * n) s = .next t ∧
      t.x.toNat = Config.A.toNat ^ n * s.x.toNat % Config.M ∧
      t.phase = .idle ∧ t.fault = false ∧ t.seeded = true ∧ t.inputs = []

/-- From R76, R65: FASTSTEP `v` on a ready block, seeded or not: after SEED `v`, STEP and the wait, `x_out` is
`FastStep(A, v)`, valid, and the block is ready. The ten turns are the model's (log entries 10 and 4). -/
def Obligations.FastStepOnTheBlock : Prop :=
  ∀ (v : Nat) (s : State), s.phase = .idle → s.fault = false → v < Config.M →
    ∃ t w, run 10 (s.withProgram [.fastStep v]) = .next t ∧
      fastStep Config.A (BitVec.ofNat 64 v) = some w ∧
      t.read.xOut = w ∧ t.read.xValid = true ∧ t.read.cmdReady = true ∧ t.read.fault = false

/-- From R36, R93, R150: two idle blocks that differ only in the working registers show the host the same ports
after any number of turns, whatever it does, resets included. That `x_out` is equal after a reset too, where the spec
leaves `X` unspecified, is the model's choice (log entry 3): its free values are equal at equal counts of resets. -/
def Obligations.WorkingRegistersHidden : Prop :=
  ∀ (n : Nat) (s t : State), s.sameToHost t → s.phase = .idle →
    ∃ u v, run n s = .next u ∧ run n t = .next v ∧ u.read = v.read
end

