-- ==== Sys2Proof/Laws/Arith.lean ====
section
/-! SUPPORT. One lemma per function of Machine/Arith.lean and Machine/Operands.lean: its value as an exact number.
Later proofs cite these and unfold none of the functions. -/

namespace Sys2Proof.Machine

open Sys2Proof

theorem config_M : Config.M = 18446744073709551557 := rfl

theorem config_C : Config.C = 59 := rfl

theorem config_CEIL : Config.CEIL = 3 := rfl

theorem config_KLIM : Config.KLIM = 100 := rfl

theorem config_A_toNat : Config.A.toNat = 13891176665706064842 := by decide

theorem slice_mod (v n : Nat) : slice v n 0 = v % 2 ^ (n + 1) := by
  simp [slice]

theorem product_toNat (a x : Word) : (product a x).toNat = a.toNat * x.toNat := by
  have h : a.toNat * x.toNat < 2 ^ 64 * 2 ^ 64 := Nat.mul_lt_mul'' a.isLt x.isLt
  rw [product, BitVec.toNat_ofNat, Nat.mod_eq_of_lt (by simpa using h)]

theorem productHi_toNat (p : BitVec 128) : (productHi p).toNat = p.toNat / 2 ^ 64 := by
  have := p.isLt
  rw [productHi, BitVec.extractLsb'_toNat, Nat.shiftRight_eq_div_pow]
  omega

theorem productLo_toNat (p : BitVec 128) : (productLo p).toNat = p.toNat % 2 ^ 64 := by
  rw [productLo, BitVec.extractLsb'_toNat, Nat.shiftRight_zero]

theorem upperPart_toNat (r : BitVec 71) : (upperPart r).toNat = r.toNat / 2 ^ 64 := by
  have := r.isLt
  rw [upperPart, BitVec.extractLsb'_toNat, Nat.shiftRight_eq_div_pow]
  omega

theorem lowerPart_toNat (r : BitVec 71) : (lowerPart r).toNat = r.toNat % 2 ^ 64 := by
  rw [lowerPart, BitVec.extractLsb'_toNat, Nat.shiftRight_zero]

theorem recombine_toNat (hi lo : Word) : (recombine hi lo).toNat = lo.toNat + 59 * hi.toNat := by
  have := hi.isLt
  have := lo.isLt
  rw [recombine, config_C, BitVec.toNat_ofNat]
  omega

theorem preK_eq (r : BitVec 71) : preK r = (r.toNat / 2 ^ 64 : Nat) - 1 := by
  rw [preK, upperPart_toNat]

theorem preKReg_toInt (r : BitVec 71) : (preKReg r).toInt = preK r := by
  have := r.isLt
  rw [preKReg, BitVec.toInt_ofInt, preK_eq]
  apply Int.bmod_eq_of_le <;> omega

/-- The test of the pre-correction passes exactly when `2 <= q <= 100` (R86). -/
theorem preTest_iff (r : BitVec 71) :
    (0 < preK r ∧ preK r < Config.KLIM) ↔ 2 ≤ r.toNat / 2 ^ 64 ∧ r.toNat / 2 ^ 64 ≤ 100 := by
  rw [preK_eq, config_KLIM]
  omega

theorem preCorrect_of_not_test {r : BitVec 71} (h : ¬(2 ≤ r.toNat / 2 ^ 64 ∧ r.toNat / 2 ^ 64 ≤ 100)) :
    preCorrect r = r :=
  if_neg fun ht => h ((preTest_iff r).mp ht)

/-- A pre-correction that subtracts leaves one unit of `2^64` and the old low part with `59 * k` more (R106). -/
theorem preCorrect_toNat_of_test {r : BitVec 71} (h : 2 ≤ r.toNat / 2 ^ 64 ∧ r.toNat / 2 ^ 64 ≤ 100) :
    (preCorrect r).toNat = 2 ^ 64 + r.toNat % 2 ^ 64 + 59 * (r.toNat / 2 ^ 64 - 1) := by
  have hlt := r.isLt
  have hk : (preK r).toNat = r.toNat / 2 ^ 64 - 1 := by rw [preK_eq]; omega
  rw [preCorrect, if_pos ((preTest_iff r).mpr h), BitVec.toNat_ofNat, hk, config_M]
  omega

theorem atLeastM_iff (r : BitVec 71) : atLeastM r = true ↔ Config.M ≤ r.toNat := by
  simp only [atLeastM, decide_eq_true_eq]

theorem subtractM_toNat (r : BitVec 71) : (subtractM r).toNat = r.toNat - Config.M := by
  have := r.isLt
  rw [subtractM, BitVec.toNat_ofNat, config_M]
  omega

theorem seedInRange_iff (v : Word) : seedInRange v = true ↔ v.toNat < Config.M := by
  simp only [seedInRange, decide_eq_true_eq]

theorem recombined_toNat (a x : Word) :
    (recombined a x).toNat = a.toNat * x.toNat % 2 ^ 64 + 59 * (a.toNat * x.toNat / 2 ^ 64) := by
  rw [recombined, recombine_toNat, productHi_toNat, productLo_toNat, product_toNat]

/-- The core identity: recombining keeps the residue modulo `M` (R102). -/
theorem recombine_mod (p : Nat) : (p % 2 ^ 64 + 59 * (p / 2 ^ 64)) % Config.M = p % Config.M := by
  rw [config_M]
  omega

/-- One turn of the loop that stops. -/
theorem corrLoop_stop {r : BitVec 71} (h : r.toNat < Config.M) (left n : Nat) :
    corrLoop left r n = some (r, n) := by
  have : atLeastM r = false := by
    rw [← Bool.not_eq_true, atLeastM_iff]
    omega
  cases left <;> simp [corrLoop, this]

/-- One turn of the loop that subtracts. -/
theorem corrLoop_subtract {r : BitVec 71} (h : Config.M ≤ r.toNat) (left n : Nat) :
    corrLoop (left + 1) r n = corrLoop left (subtractM r) (n + 1) := by
  simp [corrLoop, (atLeastM_iff r).mpr h]

/-- The loop with its allowance used up: the CorrBound case. -/
theorem corrLoop_bound {r : BitVec 71} (h : Config.M ≤ r.toNat) (n : Nat) : corrLoop 0 r n = none := by
  simp [corrLoop, (atLeastM_iff r).mpr h]

end Sys2Proof.Machine
end

