-- ==== Sys2Proof/Laws/Decode.lean ====
section
/-! SUPPORT. Small lemmas about fields, codes and words. -/

namespace Sys2Proof

/-- A command word as a number: `OP` is bit 64 (R56). -/
theorem cmdWord_toNat (op : BitVec 1) (d : Word) : (cmdWord op d).toNat = op.toNat * 2 ^ 64 + d.toNat := by
  rw [cmdWord, BitVec.toNat_append, Nat.shiftLeft_eq, Nat.mul_comm, ← Nat.two_pow_add_eq_or_of_lt d.isLt]

theorem cmdOp_toNat (w : CmdWord) : (cmdOp w).toNat = w.toNat / 2 ^ 64 := by
  have := w.isLt
  rw [cmdOp, BitVec.extractLsb'_toNat, Nat.shiftRight_eq_div_pow]
  omega

theorem cmdData_toNat (w : CmdWord) : (cmdData w).toNat = w.toNat % 2 ^ 64 := by
  rw [cmdData, BitVec.extractLsb'_toNat, Nat.shiftRight_zero]

@[simp] theorem cmdOp_cmdWord (op : BitVec 1) (d : Word) : cmdOp (cmdWord op d) = op := by
  apply BitVec.eq_of_toNat_eq
  have := d.isLt
  rw [cmdOp_toNat, cmdWord_toNat]
  omega

@[simp] theorem cmdData_cmdWord (op : BitVec 1) (d : Word) : cmdData (cmdWord op d) = d := by
  apply BitVec.eq_of_toNat_eq
  have := d.isLt
  rw [cmdData_toNat, cmdWord_toNat]
  omega

@[simp] theorem phaseOfCode_phaseCode (p : Phase) : phaseOfCode (phaseCode p) = p := by
  cases p <;> rfl

@[simp] theorem phaseCode_phaseOfCode (c : PhaseCode) : phaseCode (phaseOfCode c) = c := by
  revert c; decide

@[simp] theorem decode_phaseCode (p : Phase) : decode (.ph (phaseCode p)) = instrOfPhase p := by
  simp [decode, decodePhase]

theorem Format.fits_iff (f : Format) (w : Nat) : f.fits w = true ↔ w < 2 ^ f.width := by
  simp only [Format.fits, decide_eq_true_eq]

/-- A number below 2^65 is a command word. -/
theorem readWord_cmd {w : Nat} (h : w < 2 ^ 65) : readWord .cmd w = .ok (.cmd (BitVec.ofNat 65 w)) :=
  if_pos ((Format.fits_iff .cmd w).mpr h)

/-- A number below 2^3 is a phase code. -/
theorem readWord_ph {w : Nat} (h : w < 2 ^ 3) : readWord .ph w = .ok (.ph (BitVec.ofNat 3 w)) :=
  if_pos ((Format.fits_iff .ph w).mpr h)

/-- A number that does not fit its format is refused by name. -/
theorem readWord_of_not_fits {f : Format} {w : Nat} (h : f.fits w = false) :
    readWord f w = .error (.tooWide f) := by
  simp [readWord, h]

end Sys2Proof
end

