-- ==== Sys2Proof/Laws/State.lean ====
section
/-! SUPPORT. What each named update of the state leaves in each field: the lemmas later proofs simplify with, so that
no record update is unfolded again. -/

namespace Sys2Proof.Machine

/-! ### `goto` -/

@[simp] theorem State.goto_x (s : State) (ph : Phase) : (s.goto ph).x = s.x := rfl
@[simp] theorem State.goto_p (s : State) (ph : Phase) : (s.goto ph).p = s.p := rfl
@[simp] theorem State.goto_hi (s : State) (ph : Phase) : (s.goto ph).hi = s.hi := rfl
@[simp] theorem State.goto_lo (s : State) (ph : Phase) : (s.goto ph).lo = s.lo := rfl
@[simp] theorem State.goto_r (s : State) (ph : Phase) : (s.goto ph).r = s.r := rfl
@[simp] theorem State.goto_k (s : State) (ph : Phase) : (s.goto ph).k = s.k := rfl
@[simp] theorem State.goto_cnt (s : State) (ph : Phase) : (s.goto ph).cnt = s.cnt := rfl
@[simp] theorem State.goto_phase (s : State) (ph : Phase) : (s.goto ph).phase = ph := rfl
@[simp] theorem State.goto_seeded (s : State) (ph : Phase) : (s.goto ph).seeded = s.seeded := rfl
@[simp] theorem State.goto_fault (s : State) (ph : Phase) : (s.goto ph).fault = s.fault := rfl
@[simp] theorem State.goto_cause (s : State) (ph : Phase) : (s.goto ph).cause = s.cause := rfl
@[simp] theorem State.goto_inputs (s : State) (ph : Phase) : (s.goto ph).inputs = s.inputs := rfl
@[simp] theorem State.goto_resets (s : State) (ph : Phase) : (s.goto ph).resets = s.resets := rfl

/-! ### `raise` -/

@[simp] theorem State.raise_x (s : State) (c : Cause) : (s.raise c).x = s.x := rfl
@[simp] theorem State.raise_p (s : State) (c : Cause) : (s.raise c).p = s.p := rfl
@[simp] theorem State.raise_hi (s : State) (c : Cause) : (s.raise c).hi = s.hi := rfl
@[simp] theorem State.raise_lo (s : State) (c : Cause) : (s.raise c).lo = s.lo := rfl
@[simp] theorem State.raise_r (s : State) (c : Cause) : (s.raise c).r = s.r := rfl
@[simp] theorem State.raise_k (s : State) (c : Cause) : (s.raise c).k = s.k := rfl
@[simp] theorem State.raise_cnt (s : State) (c : Cause) : (s.raise c).cnt = s.cnt := rfl
@[simp] theorem State.raise_phase (s : State) (c : Cause) : (s.raise c).phase = .faulted := rfl
@[simp] theorem State.raise_seeded (s : State) (c : Cause) : (s.raise c).seeded = s.seeded := rfl
@[simp] theorem State.raise_fault (s : State) (c : Cause) : (s.raise c).fault = true := rfl
@[simp] theorem State.raise_cause (s : State) (c : Cause) : (s.raise c).cause = c := rfl
@[simp] theorem State.raise_inputs (s : State) (c : Cause) : (s.raise c).inputs = s.inputs := rfl
@[simp] theorem State.raise_resets (s : State) (c : Cause) : (s.raise c).resets = s.resets := rfl

/-! ### `nextTurn` -/

@[simp] theorem State.nextTurn_x (s : State) : (s.nextTurn).x = s.x := rfl
@[simp] theorem State.nextTurn_p (s : State) : (s.nextTurn).p = s.p := rfl
@[simp] theorem State.nextTurn_hi (s : State) : (s.nextTurn).hi = s.hi := rfl
@[simp] theorem State.nextTurn_lo (s : State) : (s.nextTurn).lo = s.lo := rfl
@[simp] theorem State.nextTurn_r (s : State) : (s.nextTurn).r = s.r := rfl
@[simp] theorem State.nextTurn_k (s : State) : (s.nextTurn).k = s.k := rfl
@[simp] theorem State.nextTurn_cnt (s : State) : (s.nextTurn).cnt = s.cnt := rfl
@[simp] theorem State.nextTurn_phase (s : State) : (s.nextTurn).phase = s.phase := rfl
@[simp] theorem State.nextTurn_seeded (s : State) : (s.nextTurn).seeded = s.seeded := rfl
@[simp] theorem State.nextTurn_fault (s : State) : (s.nextTurn).fault = s.fault := rfl
@[simp] theorem State.nextTurn_cause (s : State) : (s.nextTurn).cause = s.cause := rfl
@[simp] theorem State.nextTurn_inputs (s : State) : (s.nextTurn).inputs = s.inputs.tail := rfl
@[simp] theorem State.nextTurn_resets (s : State) : (s.nextTurn).resets = s.resets := rfl

/-! ### `drive` -/

@[simp] theorem State.drive_x (s : State) (i : PortsIn) : (s.drive i).x = s.x := rfl
@[simp] theorem State.drive_p (s : State) (i : PortsIn) : (s.drive i).p = s.p := rfl
@[simp] theorem State.drive_hi (s : State) (i : PortsIn) : (s.drive i).hi = s.hi := rfl
@[simp] theorem State.drive_lo (s : State) (i : PortsIn) : (s.drive i).lo = s.lo := rfl
@[simp] theorem State.drive_r (s : State) (i : PortsIn) : (s.drive i).r = s.r := rfl
@[simp] theorem State.drive_k (s : State) (i : PortsIn) : (s.drive i).k = s.k := rfl
@[simp] theorem State.drive_cnt (s : State) (i : PortsIn) : (s.drive i).cnt = s.cnt := rfl
@[simp] theorem State.drive_phase (s : State) (i : PortsIn) : (s.drive i).phase = s.phase := rfl
@[simp] theorem State.drive_seeded (s : State) (i : PortsIn) : (s.drive i).seeded = s.seeded := rfl
@[simp] theorem State.drive_fault (s : State) (i : PortsIn) : (s.drive i).fault = s.fault := rfl
@[simp] theorem State.drive_cause (s : State) (i : PortsIn) : (s.drive i).cause = s.cause := rfl
@[simp] theorem State.drive_inputs (s : State) (i : PortsIn) : (s.drive i).inputs = i :: s.inputs.tail := rfl
@[simp] theorem State.drive_resets (s : State) (i : PortsIn) : (s.drive i).resets = s.resets := rfl

/-! ### `resetEvent`: what the spec gives, and the model's own fields -/

@[simp] theorem State.resetEvent_phase (s : State) : (s.resetEvent).phase = .idle := rfl
@[simp] theorem State.resetEvent_seeded (s : State) : (s.resetEvent).seeded = false := rfl
@[simp] theorem State.resetEvent_fault (s : State) : (s.resetEvent).fault = false := rfl
@[simp] theorem State.resetEvent_cause (s : State) : (s.resetEvent).cause = .none := rfl
@[simp] theorem State.resetEvent_inputs (s : State) : (s.resetEvent).inputs = s.inputs := rfl
@[simp] theorem State.resetEvent_resets (s : State) : (s.resetEvent).resets = s.resets + 1 := rfl

/-! ### The input ports -/

@[simp] theorem State.ports_drive (s : State) (i : PortsIn) : (s.drive i).ports = i := rfl

@[simp] theorem State.nextTurn_drive (s : State) (i : PortsIn) : (s.drive i).nextTurn = s.nextTurn := rfl

theorem State.ports_of_inputs_nil {s : State} (h : s.inputs = []) : s.ports = PortsIn.quiet := by
  simp [State.ports, h]

theorem State.ports_of_inputs_cons {s : State} {i : PortsIn} {rest : List PortsIn} (h : s.inputs = i :: rest) :
    s.ports = i := by
  simp [State.ports, h]

/-! ### The flags -/

theorem State.ready_iff (s : State) : s.ready = true ↔ s.phase = .idle ∧ s.fault = false := by
  simp [State.ready]

theorem State.not_ready_iff (s : State) : s.ready = false ↔ ¬(s.phase = .idle ∧ s.fault = false) := by
  rw [← s.ready_iff, Bool.not_eq_true]

theorem State.at_iff (s : State) (ph : Phase) : s.at ph = true ↔ s.phase = ph ∧ s.fault = false := by
  simp [State.at]

theorem State.busy_iff (s : State) : s.busy = true ↔ s.phase ≠ .idle ∧ s.phase ≠ .faulted := by
  unfold State.busy
  cases s.phase <;> simp [phaseBusy]

@[simp] theorem State.ready_nextTurn (s : State) : s.nextTurn.ready = s.ready := rfl

@[simp] theorem State.busy_nextTurn (s : State) : s.nextTurn.busy = s.busy := rfl

theorem State.accept_of_ready {s : State} (h : s.ready = true) (e : State → State) : s.accept e = e s := by
  simp [State.accept, h]

theorem State.accept_of_not_ready {s : State} (h : s.ready = false) (e : State → State) : s.accept e = s := by
  simp [State.accept, h]

theorem State.perform_of_at {s : State} {ph : Phase} (h : s.at ph = true) (e : State → State) :
    s.perform ph e = e s := by
  simp [State.perform, h]

theorem State.perform_of_not_at {s : State} {ph : Phase} (h : s.at ph = false) (e : State → State) :
    s.perform ph e = s := by
  simp [State.perform, h]

end Sys2Proof.Machine
end

