-- ==== Sys2Proof/Laws/Exec.lean ====
section
/-! SUPPORT. Everything an instruction can do, said once per instruction, and everything a step can do: later proofs
take one of these apart and unfold no meaning again. -/

namespace Sys2Proof.Machine

open Sys2Proof

theorem next_inj {s t : State} (h : (Host.Outcome.next s : Host.Outcome State Fault Refusal) = .next t) :
    t = s := by
  injection h with h
  exact h.symm

theorem accept_cases (s : State) (e : State → State) :
    (s.ready = true ∧ s.accept e = e s) ∨ (s.ready = false ∧ s.accept e = s) := by
  cases h : s.ready
  · exact .inr ⟨rfl, State.accept_of_not_ready h e⟩
  · exact .inl ⟨rfl, State.accept_of_ready h e⟩

theorem perform_cases (s : State) (ph : Phase) (e : State → State) :
    ((s.phase = ph ∧ s.fault = false) ∧ s.perform ph e = e s) ∨
      (¬(s.phase = ph ∧ s.fault = false) ∧ s.perform ph e = s) := by
  cases h : s.at ph
  · exact .inr ⟨by rw [← State.at_iff, h]; simp, State.perform_of_not_at h e⟩
  · exact .inl ⟨(State.at_iff s ph).mp h, State.perform_of_at h e⟩

theorem exec_seed_cases {v : Word} {s t : State} (h : exec (.seed v) s = .next t) :
    (s.ready = true ∧ v.toNat < Config.M ∧ t = { s with x := v, seeded := true, phase := .idle }) ∨
    (s.ready = true ∧ Config.M ≤ v.toNat ∧ t = s.raise .seedRange) ∨
    (s.ready = false ∧ t = s) := by
  have ht := next_inj h
  obtain ⟨hr, he⟩ | ⟨hr, he⟩ := accept_cases s fun s =>
    if seedInRange v then { s with x := v, seeded := true, phase := .idle } else s.raise .seedRange
  · rw [he] at ht
    by_cases hv : v.toNat < Config.M
    · exact .inl ⟨hr, hv, by rw [ht, if_pos ((seedInRange_iff v).mpr hv)]⟩
    · exact .inr (.inl ⟨hr, not_lt.mp hv, by rw [ht, if_neg (mt (seedInRange_iff v).mp hv)]⟩)
  · exact .inr (.inr ⟨hr, ht.trans he⟩)

theorem exec_step_cases {d : Word} {s t : State} (h : exec (.step d) s = .next t) :
    (s.ready = true ∧ s.seeded = true ∧ t = s.goto .mul) ∨
    (s.ready = true ∧ s.seeded = false ∧ t = s.raise .unseeded) ∨
    (s.ready = false ∧ t = s) := by
  have ht := next_inj h
  obtain ⟨hr, he⟩ | ⟨hr, he⟩ := accept_cases s fun s =>
    if s.seeded then s.goto .mul else s.raise .unseeded
  · rw [he] at ht
    cases hs : s.seeded
    · exact .inr (.inl ⟨hr, rfl, by rw [ht, hs]; rfl⟩)
    · exact .inl ⟨hr, rfl, by rw [ht, hs]; rfl⟩
  · exact .inr (.inr ⟨hr, ht.trans he⟩)

theorem exec_idle_cases {s t : State} (h : exec .idle s = .next t) : t = s :=
  next_inj h

theorem exec_faulted_cases {s t : State} (h : exec .faulted s = .next t) : t = s :=
  next_inj h

theorem exec_mul_cases {s t : State} (h : exec .mul s = .next t) :
    ((s.phase = .mul ∧ s.fault = false) ∧ t = { s with p := product Config.A s.x, phase := .split }) ∨
    (¬(s.phase = .mul ∧ s.fault = false) ∧ t = s) :=
  (perform_cases s .mul _).imp (And.imp_right (next_inj h).trans) (And.imp_right (next_inj h).trans)

theorem exec_split_cases {s t : State} (h : exec .split s = .next t) :
    ((s.phase = .split ∧ s.fault = false) ∧
      t = { s with hi := productHi s.p, lo := productLo s.p, phase := .recomb }) ∨
    (¬(s.phase = .split ∧ s.fault = false) ∧ t = s) :=
  (perform_cases s .split _).imp (And.imp_right (next_inj h).trans) (And.imp_right (next_inj h).trans)

theorem exec_recomb_cases {s t : State} (h : exec .recomb s = .next t) :
    ((s.phase = .recomb ∧ s.fault = false) ∧ t = { s with r := recombine s.hi s.lo, phase := .precorr }) ∨
    (¬(s.phase = .recomb ∧ s.fault = false) ∧ t = s) :=
  (perform_cases s .recomb _).imp (And.imp_right (next_inj h).trans) (And.imp_right (next_inj h).trans)

theorem exec_precorr_cases {s t : State} (h : exec .precorr s = .next t) :
    ((s.phase = .precorr ∧ s.fault = false) ∧
      t = { s with k := preKReg s.r, r := preCorrect s.r, cnt := 0#2, phase := .corr }) ∨
    (¬(s.phase = .precorr ∧ s.fault = false) ∧ t = s) :=
  (perform_cases s .precorr _).imp (And.imp_right (next_inj h).trans) (And.imp_right (next_inj h).trans)

theorem exec_corr_cases {s t : State} (h : exec .corr s = .next t) :
    ((s.phase = .corr ∧ s.fault = false) ∧
      ((Config.M ≤ s.r.toNat ∧ s.cnt.toNat = 3 ∧ t = s.raise .corrBound) ∨
       (Config.M ≤ s.r.toNat ∧ s.cnt.toNat < 3 ∧
         t = { s with r := subtractM s.r, cnt := s.cnt + 1#2, phase := .corr }) ∨
       (s.r.toNat < Config.M ∧ t = s.goto .commit))) ∨
    (¬(s.phase = .corr ∧ s.fault = false) ∧ t = s) := by
  have ht := next_inj h
  refine (perform_cases s .corr fun s => if atLeastM s.r then
      if s.cnt.toNat = Config.CEIL then s.raise .corrBound
      else { s with r := subtractM s.r, cnt := s.cnt + 1#2, phase := .corr }
    else s.goto .commit).imp (And.imp_right fun he => ?_) (And.imp_right fun he => ht.trans he)
  rw [show t = _ from ht.trans he]
  have hc := s.cnt.isLt
  rw [config_CEIL]
  by_cases hr : Config.M ≤ s.r.toNat
  · rw [if_pos ((atLeastM_iff s.r).mpr hr)]
    by_cases hn : s.cnt.toNat = 3
    · exact .inl ⟨hr, hn, by rw [if_pos hn]⟩
    · exact .inr (.inl ⟨hr, by omega, by rw [if_neg hn]⟩)
  · rw [if_neg (mt (atLeastM_iff s.r).mp hr)]
    exact .inr (.inr ⟨not_le.mp hr, rfl⟩)

theorem exec_commit_cases {s t : State} (h : exec .commit s = .next t) :
    ((s.phase = .commit ∧ s.fault = false) ∧ t = { s with x := lowerPart s.r, phase := .idle }) ∨
    (¬(s.phase = .commit ∧ s.fault = false) ∧ t = s) :=
  (perform_cases s .commit _).imp (And.imp_right (next_inj h).trans) (And.imp_right (next_inj h).trans)

/-- What a turn brings: the reset event, or the instruction of the word that is read. -/
theorem step_cases {s t : State} (h : step s = .next t) :
    (s.ports.reset = true ∧ t = s.nextTurn.resetEvent) ∨
    (s.ports.reset = false ∧ exec (decode s.fetch) s.nextTurn = .next t) := by
  cases hr : s.ports.reset
  · exact .inr ⟨rfl, by simpa [step, hr] using h⟩
  · exact .inl ⟨rfl, next_inj (by simpa [step, hr] using h)⟩

theorem fetch_of_accept {s : State} (hv : s.ports.cmdValid = true) (hr : s.ready = true) :
    s.fetch = .cmd s.ports.cmd := by
  simp [State.fetch, State.acceptEnabled, hv, hr]

theorem fetch_of_not_ready {s : State} (hr : s.ready = false) : s.fetch = .ph (phaseCode s.phase) := by
  simp [State.fetch, State.acceptEnabled, hr]

theorem fetch_of_no_command {s : State} (hv : s.ports.cmdValid = false) : s.fetch = .ph (phaseCode s.phase) := by
  simp [State.fetch, State.acceptEnabled, hv]

/-- A word that is placed is the word that is read, in a turn without a reset event. -/
theorem fetch_place (s : State) (c : CodeWord) : (s.place c).fetch = c ∧ (s.place c).ports.reset = false := by
  cases c with
  | cmd w => exact ⟨rfl, rfl⟩
  | ph c => exact ⟨congrArg CodeWord.ph (phaseCode_phaseOfCode c), rfl⟩

/-- A block that is not ready does what its phase says, whatever the host presents. -/
theorem step_of_not_ready {s : State} (hr : s.ready = false) (h0 : s.ports.reset = false) :
    step s = exec (instrOfPhase s.phase) s.nextTurn := by
  simp [step, h0, fetch_of_not_ready hr]

/-- A ready block to which nothing is presented keeps every register. -/
theorem step_of_nop {s : State} (hr : s.ready = true) (h0 : s.ports.reset = false)
    (hv : s.ports.cmdValid = false) : step s = .next s.nextTurn := by
  have hp := ((State.ready_iff s).mp hr).1
  simp [step, h0, fetch_of_no_command hv, hp, instrOfPhase, exec, execIdle]

end Sys2Proof.Machine
end

