-- ==== Sys2Proof/Laws/PerInstr.lean ====
section
/-! SUPPORT. The per-instruction family EncodingRow: an instruction's encoding selects its row of the maps of R59 and
R60. -/

namespace Sys2Proof.Laws.EncodingRow

/-- The encoded word, masked by the row's mask, is the row's match (R59, R60). -/
def Statement (i : Instr) : Prop :=
  (mapRow i).selects (encode i) = true

theorem seed (data : Word) : Statement (.seed data) := by
  have h := data.isLt
  simp only [Statement, mapRow, MapRow.selects, encode, CodeWord.format, CodeWord.number,
    decide_eq_true_eq, true_and]
  rw [cmdWord_toNat, show (0x10000000000000000 : Nat) = 2 ^ 64 from rfl, Nat.and_two_pow,
    Nat.testBit_eq_decide_div_mod_eq]
  simp [Nat.div_eq_of_lt h]

theorem step (data : Word) : Statement (.step data) := by
  have h := data.isLt
  simp only [Statement, mapRow, MapRow.selects, encode, CodeWord.format, CodeWord.number,
    decide_eq_true_eq, true_and]
  rw [cmdWord_toNat, show (0x10000000000000000 : Nat) = 2 ^ 64 from rfl, Nat.and_two_pow,
    Nat.testBit_eq_decide_div_mod_eq,
    show ((1#1).toNat * 2 ^ 64 + data.toNat) / 2 ^ 64 % 2 = 1 by
      rw [show (1#1).toNat = 1 from rfl]; omega]
  rfl

theorem idle : Statement .idle := by rfl

theorem mul : Statement .mul := by rfl

theorem split : Statement .split := by rfl

theorem recomb : Statement .recomb := by rfl

theorem precorr : Statement .precorr := by rfl

theorem corr : Statement .corr := by rfl

theorem commit : Statement .commit := by rfl

theorem faulted : Statement .faulted := by rfl

end Sys2Proof.Laws.EncodingRow
end

