-- ==== Sys2Proof/Laws/Run.lean ====
section
/-! SUPPORT. Runs of turns: one more turn, runs in a row, the host's own run, turns without a reset event. -/

namespace Sys2Proof.Machine

open Sys2Proof

@[simp] theorem run_zero (s : State) : run 0 s = .next s := rfl

theorem run_succ {s t : State} (h : step s = .next t) (n : Nat) : run (n + 1) s = run n t := by
  simp [run, h]

/-- Runs in a row. -/
theorem run_add {s t : State} {m : Nat} (h : run m s = .next t) (n : Nat) : run (m + n) s = run n t := by
  induction m generalizing s with
  | zero => rw [next_inj h, Nat.zero_add]
  | succ m ih =>
    cases hs : step s with
    | next u =>
      rw [run_succ hs] at h
      rw [show m + 1 + n = (m + n) + 1 by omega, run_succ hs]
      exact ih h
    | fault f => simp [run, hs] at h
    | refused f => simp [run, hs] at h

/-- One more turn of the host's run, for any machine. -/
theorem core_run_next (m : Host.Core) {s t : m.State} (h : m.step s = .next t) (n : Nat) :
    m.run (n + 1) s = m.run n t := by
  simp [Host.Core.run, h]

theorem core_run_fault (m : Host.Core) {s : m.State} {f : m.Fault} (h : m.step s = .fault f) (n : Nat) :
    m.run (n + 1) s = .fault f := by
  simp [Host.Core.run, h]

theorem core_run_refused (m : Host.Core) {s : m.State} {f : m.Refusal} (h : m.step s = .refused f) (n : Nat) :
    m.run (n + 1) s = .refused f := by
  simp [Host.Core.run, h]

/-- The host's run of the machine is this run. -/
theorem core_run (n : Nat) (s : State) : Host.Core.run core n s = run n s := by
  induction n generalizing s with
  | zero => rfl
  | succ n ih =>
    cases h : step s with
    | next t => exact (core_run_next core h n).trans ((ih t).trans (run_succ h n).symm)
    | fault f => exact (core_run_fault core h n).trans (by simp [run, h]; rfl)
    | refused f => exact (core_run_refused core h n).trans (by simp [run, h]; rfl)

theorem noResetIn_zero (s : State) : s.noResetIn 0 := by
  simp [State.noResetIn]

/-- The nearest of some turns without a reset event has none. -/
theorem State.noResetIn.ports {s : State} {n : Nat} (h : s.noResetIn (n + 1)) : s.ports.reset = false := by
  cases hi : s.inputs with
  | nil => rw [State.ports_of_inputs_nil hi]; rfl
  | cons i rest => rw [State.ports_of_inputs_cons hi]; exact h i (by simp [hi])

/-- After a turn, the turns that are left have no reset event either. -/
theorem State.noResetIn.tail {s t : State} {n : Nat} (h : s.noResetIn (n + 1)) (ht : t.inputs = s.inputs.tail) :
    t.noResetIn n := by
  intro i hi
  rw [ht] at hi
  cases hs : s.inputs with
  | nil => simp [hs] at hi
  | cons j rest =>
    rw [hs] at hi
    exact h i (by simpa [hs] using .inr hi)

end Sys2Proof.Machine
end

