-- ==== Sys2Proof/Machine/Timing.lean ====
section
/-! DEFINITION. Which OPEN latency belongs to which instruction (R148, D16; log entry 7). No rule reads a latency and
the model has no time: neither `exec` nor `step` uses this file. -/

namespace Sys2Proof.Machine

open Sys2Proof

/-- The timed event of an instruction: a command's accept event, a micro-operation's sequencer step; none in IDLE and
FAULTED, where the sequencer has no step (R80, R148). -/
def timedEvent : Instr → Option Config.Timed
  | .seed _ => some .accept
  | .step _ => some .accept
  | .idle => none
  | .mul => some .mul
  | .split => some .split
  | .recomb => some .recomb
  | .precorr => some .precorr
  | .corr => some .corr
  | .commit => some .commit
  | .faulted => none

/-- The clock cycles of the instruction's event: its `LAT_*`, where it has one (R3, R148). -/
def latency (i : Instr) : Option Nat :=
  (timedEvent i).bind Config.lat

end Sys2Proof.Machine
end

