-- ==== Sys2Proof/Laws/Timing.lean ====
section
/-! SUPPORT. All that is known of the OPEN latencies: each is at least 1 if the block is clocked (R148, D16), and there
is none otherwise. -/

namespace Sys2Proof

theorem Config.lat_pos {e : Config.Timed} {n : Nat} (h : Config.lat e = some n) : 1 ≤ n := by
  unfold Config.lat at h
  split at h
  · injection h with h
    omega
  · cases h

theorem Config.lat_isSome (e : Config.Timed) : (Config.lat e).isSome = Config.clocked := by
  unfold Config.lat
  split <;> simp_all

theorem Machine.latency_pos {i : Instr} {n : Nat} (h : Machine.latency i = some n) : 1 ≤ n := by
  obtain ⟨e, -, he⟩ := Option.bind_eq_some_iff.mp h
  exact Config.lat_pos he

end Sys2Proof
end

