-- ==== Sys2Proof/Tests/Slice0.lean ====
section
/-! SUPPORT. Tests, each one step or less, and a witness for the hypotheses of every statement. Every expected result
is from the spec: a row of `95_test_vectors.md` (S, V, W, Q, E, P rows and the tables 2.5 to 2.8), a worked example of
a rule, or a hand calculation from a rule, named at the test. -/

namespace Sys2Proof.Tests

open Sys2Proof Sys2Proof.Machine

/-! ### Helpers -/

/-- The next state, if there is one. -/
def nextOf : Host.Outcome State Fault Refusal → Option State
  | .next s => some s
  | .fault _ => none
  | .refused _ => none

/-- An idle block that holds `x`. -/
def idleAt (x : Word) : State :=
  { State.reset with x := x, seeded := true }

/-- A block in a phase of a STEP from `x`. -/
def busyAt (ph : Phase) (x : Word) : State :=
  { State.reset with x := x, seeded := true, phase := ph }

/-- A block that has taken the fault `c`. -/
def faultedAt (c : Cause) : State :=
  { State.reset with phase := .faulted, fault := true, cause := c }

/-- A block with a command presented in its next turn. -/
def presented (s : State) (i : Instr) : State :=
  match encode i with
  | .cmd w => { s with inputs := [presentTurn w] }
  | .ph _ => s

/-! ### Well-formedness: each check refuses an ill-formed term -/

theorem test_phase_code_of_four_bits_refused : Format.ph.fits 8 = false := by decide

theorem test_command_word_of_66_bits_refused : Format.cmd.fits (2 ^ 65) = false := by decide

theorem test_step_with_data_not_canonical : (Instr.step 5#64).canonical = false := by decide

theorem test_written_value_of_65_bits_refused : (HostLine.seed (2 ^ 64)).wellFormed = false := by decide

theorem test_fastStep_value_of_65_bits_refused : (HostAction.fastStep (2 ^ 64)).wellFormed = false := by decide

theorem test_well_formed : (Instr.step 5#64).wellFormed = true ∧ Format.cmd.fits (2 ^ 65 - 1) = true ∧
    (HostAction.fastStep (2 ^ 64 - 1)).wellFormed = true := by decide

/-! ### Decoding: words written out from R56, R59, R60, R66 and rows E1 to E9 -/

/-- E3: OP 0, DATA = M - 1, bit by bit. -/
theorem test_decode_seed_bits :
    decode (.cmd (0b0#1 ++ 0b1111111111111111111111111111111111111111111111111111111111000100#64)) =
      .seed 18446744073709551556#64 := by decide

/-- E1, E2, E4, E8, E9. -/
theorem test_decode_commands :
    decode (.cmd 0x00000000000000000#65) = .seed 0#64 ∧
    decode (.cmd 0x00000000000000001#65) = .seed 1#64 ∧
    decode (.cmd 0x0FFFFFFFFFFFFFFC5#65) = .seed 18446744073709551557#64 ∧
    decode (.cmd 0x10000000000000000#65) = .step 0#64 ∧
    decode (.cmd 0x1DEADBEEF00000001#65) = .step 0xDEADBEEF00000001#64 := by decide

/-- R60, all eight codes. -/
theorem test_decode_phases :
    decode (.ph 0b000#3) = .idle ∧ decode (.ph 0b001#3) = .mul ∧ decode (.ph 0b010#3) = .split ∧
    decode (.ph 0b011#3) = .recomb ∧ decode (.ph 0b100#3) = .precorr ∧ decode (.ph 0b101#3) = .corr ∧
    decode (.ph 0b110#3) = .commit ∧ decode (.ph 0b111#3) = .faulted := by decide

/-- The table's numbering of bits: R59's match words, a phase code, and numbers that fit no format. -/
theorem test_decodeTableWord :
    decodeTableWord 72 0x10000000000000000 = some (.step 0#64) ∧
    decodeTableWord 72 0x7D85B6CD5891382C = some (.seed 9044836419713972268#64) ∧
    decodeTableWord 8 5 = some .corr ∧
    decodeTableWord 8 8 = none ∧ decodeTableWord 72 (2 ^ 65) = none := by decide

/-! ### Commands (table 2.4) -/

/-- E3. -/
theorem test_seed_largest :
    (nextOf (exec (.seed 0xFFFFFFFFFFFFFFC4#64) State.reset)).map
      (fun s => (s.x, s.seeded, s.status)) = some (0xFFFFFFFFFFFFFFC4#64, true, 0b000101#6) := by decide

/-- E6: the fault keeps `X` and `SEEDED`. -/
theorem test_seed_out_of_range :
    (nextOf (exec (.seed 0xFFFFFFFFFFFFFFC5#64) (idleAt 7#64))).map
      (fun s => (s.x, s.seeded, s.phase, s.status)) = some (7#64, true, Phase.faulted, 0b011100#6) := by decide

/-- E9: `DATA` ignored, `X` still 1. -/
theorem test_step_accepted :
    (nextOf (exec (.step 0xDEADBEEF00000001#64) (idleAt 1#64))).map
      (fun s => (s.x, s.phase, s.status)) = some (1#64, Phase.mul, 0b000110#6) := by decide

/-- E10. -/
theorem test_step_unseeded :
    (nextOf (exec (.step 0#64) State.reset)).map
      (fun s => (s.seeded, s.phase, s.status)) = some (false, Phase.faulted, 0b101000#6) := by decide

/-! ### Micro-operations -/

/-- Row V13. -/
theorem test_mul_largest :
    (nextOf (exec .mul (busyAt .mul 0xFFFFFFFFFFFFFFC4#64))).map (fun s => (s.p, s.phase)) =
      some (0xC0C75F942F9AEB9CD1459944D7B0BCA8#128, Phase.split) := by decide

/-- Table 2.7, row 2. -/
theorem test_split_largest :
    (nextOf (exec .split { busyAt .split 0#64 with p := 0xFFFFFFFFFFFFFFFE0000000000000001#128 })).map
      (fun s => (s.hi, s.lo, s.phase)) =
      some (0xFFFFFFFFFFFFFFFE#64, 0x0000000000000001#64, Phase.recomb) := by decide

/-- Table 2.7, row 4: a 64-bit adder would be wrong. -/
theorem test_recomb_carries :
    (nextOf (exec .recomb { busyAt .recomb 0#64 with hi := 0xFFFFFFFFFFFFFFFE#64, lo := 1#64 })).map
      (fun s => (s.r, s.phase)) = some (0x3AFFFFFFFFFFFFFF8B#71, Phase.precorr) := by decide

/-- Table 2.5, rows 1 and 5: `q = 0` gives `K = -1`; `q = 2` subtracts one `M`. -/
theorem test_precorr_small_q :
    (nextOf (exec .precorr { busyAt .precorr 0#64 with r := 5#71, cnt := 3#2 })).map
      (fun s => (s.k, s.r, s.cnt, s.phase)) = some (0xFF#8, 5#71, 0#2, Phase.corr) ∧
    (nextOf (exec .precorr { busyAt .precorr 0#64 with r := 0x020000000000000000#71 })).map
      (fun s => (s.k, s.r)) = some (1#8, 0x01000000000000003B#71) := by decide

/-- Table 2.5, rows 9 and 10: `k = 99` passes the test, `k = 100` does not. -/
theorem test_precorr_limit :
    (nextOf (exec .precorr { busyAt .precorr 0#64 with r := 0x640000000000000005#71 })).map
      (fun s => (s.k, s.r)) = some (99#8, 0x0100000000000016D6#71) ∧
    (nextOf (exec .precorr { busyAt .precorr 0#64 with r := 0x650000000000000005#71 })).map
      (fun s => (s.k, s.r)) = some (100#8, 0x650000000000000005#71) := by decide

/-- Table 2.6, rows 3 and 10: `R = M` subtracts, and the third subtraction is allowed. -/
theorem test_corr_subtracts :
    (nextOf (exec .corr { busyAt .corr 0#64 with r := 0x00FFFFFFFFFFFFFFC5#71 })).map
      (fun s => (s.r, s.cnt, s.phase)) = some (0#71, 1#2, Phase.corr) ∧
    (nextOf (exec .corr { busyAt .corr 0#64 with r := 0x010000000000000000#71, cnt := 2#2 })).map
      (fun s => (s.r, s.cnt, s.phase)) = some (0x3B#71, 3#2, Phase.corr) := by decide

/-- Table 2.6, rows 8 and 9: the ceiling is tested only when a subtraction is wanted. -/
theorem test_corr_bound :
    (nextOf (exec .corr { busyAt .corr 0#64 with r := 0x00FFFFFFFFFFFFFFC5#71, cnt := 3#2 })).map
      (fun s => (s.r, s.cnt, s.phase, s.status)) =
      some (0x00FFFFFFFFFFFFFFC5#71, 3#2, Phase.faulted, 0b111100#6) ∧
    (nextOf (exec .corr { busyAt .corr 0#64 with r := 0x00FFFFFFFFFFFFFFC4#71, cnt := 3#2 })).map
      (fun s => (s.r, s.cnt, s.phase)) = some (0x00FFFFFFFFFFFFFFC4#71, 3#2, Phase.commit) := by decide

/-- Table 2.7, COMMIT. -/
theorem test_commit :
    (nextOf (exec .commit { busyAt .commit 0xFFFFFFFFFFFFFFC4#64 with r := 0x003F38A06BD06513FB#71 })).map
      (fun s => (s.x, s.phase, s.status)) = some (0x3F38A06BD06513FB#64, Phase.idle, 0b000101#6) := by decide

/-- R80: a micro-operation out of its phase does nothing. -/
theorem test_mul_out_of_phase :
    (nextOf (exec .mul (idleAt 5#64))) = some (idleAt 5#64) := by decide

/-- R81, R89. -/
theorem test_idle_faulted :
    nextOf (exec .idle (idleAt 5#64)) = some (idleAt 5#64) ∧
    nextOf (exec .faulted (faultedAt .seedRange)) = some (faultedAt .seedRange) := by decide

/-! ### The pure functions (tables 2.1 to 2.3) -/

/-- V10 and V13, and W11: two subtractions, one, and the congruence of `M` to 0. -/
theorem test_fastStep_wired :
    fastStepCount Config.A 0x7D85B6CD5891382C#64 = some (1#64, 2) ∧
    fastStepCount Config.A 0xFFFFFFFFFFFFFFC4#64 = some (4555567408003486715#64, 1) ∧
    fastStepCount Config.A 0xFFFFFFFFFFFFFFC5#64 = some (0#64, 2) := by decide

/-- W1 and W9. -/
theorem test_fastStep_other_multipliers :
    fastStepCount 0xFFFFFFFFFFFFFFFF#64 1#64 = some (58#64, 1) ∧
    fastStepCount 0xFFFFFFFFFFFFFF8A#64 0xFFFFFFFFFFFFFF8A#64 = some (3481#64, 1) := by decide

/-- Hand calculation from R90, R91 (the counterexample to a sentence of R107, see NOTES.md): `A * x mod M = 51`, `q = 0`,
one subtraction. -/
theorem test_fastStep_q_zero_subtracts :
    (upperPart (recombined Config.A 118055562673796743#64)).toNat = 0 ∧
    fastStepCount Config.A 118055562673796743#64 = some (51#64, 1) ∧
    13891176665706064842 * 118055562673796743 % 18446744073709551557 = 51 := by decide

/-- Q1 and Q2. -/
theorem test_mul64 :
    mul64 0xC0C75F942F9AEBCA#64 0xFFFFFFFFFFFFFFC4#64 = (0xC0C75F942F9AEB9C#64, 0xD1459944D7B0BCA8#64) ∧
    (partialProducts 0xFFFFFFFFFFFFFFFF#64 0xFFFFFFFFFFFFFFFF#64).mid = 0x100000000 := by decide

/-! ### A step -/

/-- E11: a command presented to a busy block is not taken; the sequencer goes on. -/
theorem test_busy_ignores_command :
    (nextOf (step (presented (busyAt .mul 1#64) (.seed 9#64)))).map (fun s => (s.x, s.phase)) =
      some (1#64, Phase.split) := by decide

/-- E12: nor to a faulted one. -/
theorem test_faulted_ignores_command :
    nextOf (step (presented (faultedAt .seedRange) (.seed 9#64))) = some (faultedAt .seedRange) := by decide

/-- E13: a NOP changes nothing. -/
theorem test_nop : nextOf (step (idleAt 5#64)) = some (idleAt 5#64) := by decide

/-- Table 2.8, row 2: a reset in the middle of a STEP; and it wins over a command in the same turn (R125). -/
theorem test_reset_wins :
    (nextOf (step { busyAt .corr 1#64 with
        inputs := [{ reset := true, cmdValid := true, cmd := 9#65 }] })).map
      (fun s => (s.phase, s.seeded, s.fault, s.cause, s.status)) =
      some (Phase.idle, false, false, Cause.none, 0b000001#6) := by rfl

/-- Table 2.8, row 3: a reset clears a fault. -/
theorem test_reset_clears_fault :
    (nextOf (step { faultedAt .seedRange with inputs := [resetTurn] })).map
      (fun s => (s.phase, s.fault, s.status)) = some (Phase.idle, false, 0b000001#6) := by rfl

/-- R35. -/
theorem test_reset_status : State.reset.status = 0b000001#6 := by decide

/-- A word placed after reset is what the first step runs: E2's word, and the code of MUL. -/
theorem test_first_word_after_reset :
    (nextOf (step (State.reset.withFetchWord 72 1))).map (fun s => (s.x, s.seeded)) = some (1#64, true) ∧
    (nextOf (step (State.reset.withFetchWord 8 1))).map State.phase = some Phase.split ∧
    (nextOf (step (State.reset.withFetchWord 72 0x10000000000000000))).map State.cause =
      some Cause.unseeded := by decide

/-- R65: FASTSTEP is SEED, STEP, READ. -/
theorem test_expand_fastStep :
    (HostAction.fastStep 5).expand = [.seed 5, .step, .read] ∧
    (HostAction.line .read).turns = [] ∧ (HostAction.fastStep 5).turns.length = 10 := by decide

/-- R30, R49: READ samples `X` and the status. -/
theorem test_read :
    (faultedAt .unseeded).read =
      { cmdReady := false, xOut := 0#64, xValid := false, busy := false, fault := true, cause := 2#2 } := by
  decide

/-! ### Witnesses: states and operands that meet the hypotheses of the statements -/

/-- A state in the loop of the STEP of row V13, with one subtraction made. -/
def loopV13 : State :=
  { busyAt .corr 0xFFFFFFFFFFFFFFC4#64 with r := 0x003F38A06BD06513FB#71, cnt := 1#2 }

/-- The same STEP at COMMIT. -/
def commitV13 : State :=
  { busyAt .commit 0xFFFFFFFFFFFFFFC4#64 with r := 0x003F38A06BD06513FB#71 }

theorem inv_idleAt_7 : (idleAt 7#64).Inv :=
  ⟨by decide, by decide, by decide, by decide, by decide, trivial⟩

theorem inv_idleAt_0 : (idleAt 0#64).Inv :=
  ⟨by decide, by decide, by decide, by decide, by decide, trivial⟩

theorem inv_faulted : (faultedAt .seedRange).Inv :=
  ⟨by decide, by decide, by decide, by decide, by decide, trivial⟩

theorem inv_loopV13 : loopV13.Inv :=
  ⟨by decide, by decide, by decide, by decide, by decide,
    show _ ∧ _ from ⟨by decide, by decide⟩⟩

theorem inv_commitV13 : commitV13.Inv :=
  ⟨by decide, by decide, by decide, by decide, by decide, show _ = _ by decide⟩

theorem inv_mul : (busyAt .mul 1#64).Inv :=
  ⟨by decide, by decide, by decide, by decide, by decide, trivial⟩

theorem witness_DecodeEncodeAgree : (Instr.step 0xFFFFFFFFFFFFFFFF#64).wellFormed = true := by decide

/-- Each side of the two bounds. -/
theorem witness_OnlyTooWideRefused :
    (8 ≤ 8 ∧ 2 ^ 3 ≤ 8) ∧ ¬(2 ^ 3 ≤ 7) ∧ (8 < 9 ∧ 2 ^ 65 ≤ 2 ^ 65) ∧ ¬(2 ^ 65 ≤ 2 ^ 65 - 1) := by decide

/-- With a command taken, and with none. -/
theorem witness_StepRunsDecoded :
    (presented (idleAt 7#64) (.step 0#64)).ports.reset = false ∧
    (presented (idleAt 7#64) (.step 0#64)).acceptEnabled = true ∧
    (busyAt .mul 1#64).ports.reset = false ∧ (busyAt .mul 1#64).acceptEnabled = false := by decide

theorem witness_PlacedWordRuns :
    decodeTableWord 72 0 = some (.seed 0#64) ∧ decodeTableWord 8 7 = some .faulted := by decide

theorem witness_CommandIgnoredWhenNotReady :
    (busyAt .corr 1#64).ready = false ∧
    (presentTurn 9#65).reset = PortsIn.quiet.reset ∧ presentTurn 9#65 ≠ PortsIn.quiet := by decide

theorem witness_NopKeepsEverything :
    (idleAt 7#64).ready = true ∧ (idleAt 7#64).ports.reset = false ∧
    (idleAt 7#64).ports.cmdValid = false := by decide

theorem witness_ResetEvent : ({ busyAt .corr 1#64 with inputs := [resetTurn] } : State).ports.reset = true := by
  decide

/-- Two blocks that differ in everything a reset forgets. -/
theorem witness_ResetForgets :
    let s : State := { busyAt .corr 1#64 with inputs := [resetTurn] }
    let t : State := { faultedAt .unseeded with inputs := [{ resetTurn with cmdValid := true }] }
    s.ports.reset = true ∧ t.ports.reset = true ∧ s.inputs.tail = t.inputs.tail ∧ s.resets = t.resets ∧
      s ≠ t := by decide

/-- At the largest seed that is in range; the block seeded, and not. -/
theorem witness_SeedLoads :
    (idleAt 7#64).phase = .idle ∧ (idleAt 7#64).fault = false ∧ State.reset.phase = .idle ∧
    State.reset.fault = false ∧ (0xFFFFFFFFFFFFFFC4#64).toNat < Config.M := by decide

/-- At the smallest and the largest seed out of range. -/
theorem witness_SeedOutOfRangeFaults :
    (idleAt 7#64).phase = .idle ∧ (idleAt 7#64).fault = false ∧
    Config.M ≤ (0xFFFFFFFFFFFFFFC5#64).toNat ∧ Config.M ≤ (0xFFFFFFFFFFFFFFFF#64).toNat := by decide

theorem witness_StepStartsAtMul :
    (idleAt 7#64).phase = .idle ∧ (idleAt 7#64).fault = false ∧ (idleAt 7#64).seeded = true := by decide

theorem witness_StepUnseededFaults :
    State.reset.phase = .idle ∧ State.reset.fault = false ∧ State.reset.seeded = false := by decide

theorem witness_CommandTurnedAway :
    ¬((busyAt .commit 1#64).phase = .idle ∧ (busyAt .commit 1#64).fault = false) ∧
    ¬((faultedAt .seedRange).phase = .idle ∧ (faultedAt .seedRange).fault = false) := by decide

/-- MulExact, SplitHalves, RecombExact, PrecorrEffect, CorrEffect, CommitEffect: a block in the phase. -/
theorem witness_MicroOpEffects :
    ∀ ph ∈ [Phase.mul, .split, .recomb, .precorr, .corr, .commit],
      (busyAt ph 1#64).phase = ph ∧ (busyAt ph 1#64).fault = false := by decide

/-- PrecorrEffect: `q` at 1, 2, 100 and 101. -/
theorem witness_PrecorrEffect_clauses :
    ¬(2 ≤ (0x01FFFFFFFFFFFFFFFF#71).toNat / 2 ^ 64 ∧ (0x01FFFFFFFFFFFFFFFF#71).toNat / 2 ^ 64 ≤ 100) ∧
    (2 ≤ (0x020000000000000000#71).toNat / 2 ^ 64 ∧ (0x020000000000000000#71).toNat / 2 ^ 64 ≤ 100) ∧
    (2 ≤ (0x64FFFFFFFFFFFFFFFF#71).toNat / 2 ^ 64 ∧ (0x64FFFFFFFFFFFFFFFF#71).toNat / 2 ^ 64 ≤ 100) ∧
    ¬(2 ≤ (0x650000000000000000#71).toNat / 2 ^ 64 ∧ (0x650000000000000000#71).toNat / 2 ^ 64 ≤ 100) := by
  decide

/-- CorrEffect: `R = M` with `CNT` 2 and 3, and `R = M - 1`; CommitEffect: `R = M - 1`. -/
theorem witness_CorrEffect_clauses :
    Config.M ≤ (0x00FFFFFFFFFFFFFFC5#71).toNat ∧ (2#2).toNat < 3 ∧ (3#2).toNat = 3 ∧
    (0x00FFFFFFFFFFFFFFC4#71).toNat < Config.M := by decide

theorem witness_MicroOpOnlyInItsPhase :
    phaseBusy .mul = true ∧ ¬((idleAt 7#64).phase = .mul ∧ (idleAt 7#64).fault = false) := by decide

/-- In each of the six phases. -/
theorem witness_SequencerOrder :
    ∀ ph ∈ [Phase.mul, .split, .recomb, .precorr, .corr, .commit],
      (busyAt ph 1#64).busy = true ∧ (busyAt ph 1#64).fault = false ∧ (busyAt ph 1#64).ports.reset = false := by
  decide

/-- An accepted SEED, and a COMMIT. -/
theorem witness_XWriters :
    (∃ t, exec (.seed 9#64) (idleAt 7#64) = .next t ∧ t.x ≠ (idleAt 7#64).x) ∧
    (∃ t, exec .commit commitV13 = .next t ∧ t.x ≠ commitV13.x) :=
  ⟨⟨_, rfl, by decide⟩, ⟨_, rfl, by decide⟩⟩

/-- SEEDED set; SEEDED kept. -/
theorem witness_SeededWriters :
    (∃ t, exec (.seed 9#64) State.reset = .next t ∧ t.seeded ≠ State.reset.seeded) ∧
    ∃ t, exec .mul (busyAt .mul 1#64) = .next t :=
  ⟨⟨_, rfl, by decide⟩, ⟨_, rfl⟩⟩

/-- Each clause: `P`, `HI`, `R`, `K`, `CNT` written. -/
theorem witness_WorkingRegisterWriters :
    (∃ t, exec .mul (busyAt .mul 1#64) = .next t ∧ t.p ≠ (busyAt .mul 1#64).p) ∧
    (∃ t, exec .split { busyAt .split 1#64 with p := BitVec.allOnes 128 } = .next t ∧
      t.hi ≠ 0#64 ∧ t.lo ≠ 0#64) ∧
    (∃ t, exec .recomb { busyAt .recomb 1#64 with lo := 1#64 } = .next t ∧ t.r ≠ 0#71) ∧
    (∃ t, exec .precorr { busyAt .precorr 1#64 with cnt := 1#2 } = .next t ∧ t.k ≠ 0#8 ∧ t.cnt ≠ 1#2) :=
  ⟨⟨_, rfl, by decide⟩, ⟨_, rfl, by decide⟩, ⟨_, rfl, by decide⟩, ⟨_, rfl, by decide⟩⟩

/-- Each of the three faults. -/
theorem witness_FaultEntry :
    (∃ t, exec (.seed 0xFFFFFFFFFFFFFFC5#64) State.reset = .next t ∧ t.fault ≠ State.reset.fault) ∧
    (∃ t, exec (.step 0#64) State.reset = .next t ∧ t.fault ≠ State.reset.fault) ∧
    (∃ t, exec .corr { busyAt .corr 1#64 with r := 0x00FFFFFFFFFFFFFFC5#71, cnt := 3#2 } = .next t ∧
      t.fault ≠ false) :=
  ⟨⟨_, rfl, by decide⟩, ⟨_, rfl, by decide⟩, ⟨_, rfl, by decide⟩⟩

theorem witness_FaultIsSticky :
    (presented (faultedAt .seedRange) (.step 0#64)).fault = true ∧
    (presented (faultedAt .seedRange) (.step 0#64)).noResetIn 5 := by
  refine ⟨by decide, ?_⟩
  unfold State.noResetIn
  decide

/-- StatusWord and StepKeepsInv: a ready, a busy and a faulted state that meet the invariant; each has a step. -/
theorem witness_StepKeepsInv :
    ((idleAt 7#64).Inv ∧ ∃ t, step (idleAt 7#64) = .next t) ∧
    (loopV13.Inv ∧ ∃ t, step loopV13 = .next t) ∧
    ((faultedAt .seedRange).Inv ∧ ∃ t, step (faultedAt .seedRange) = .next t) :=
  ⟨⟨inv_idleAt_7, _, rfl⟩, ⟨inv_loopV13, _, rfl⟩, ⟨inv_faulted, _, rfl⟩⟩

/-- In the loop, and at COMMIT. -/
theorem witness_XOutDuringStep :
    (loopV13.busy = true ∧ loopV13.ports.reset = false ∧ loopV13.phase ≠ .commit ∧
      ∃ t, step loopV13 = .next t) ∧
    (commitV13.busy = true ∧ commitV13.ports.reset = false ∧ commitV13.phase = .commit ∧ commitV13.Inv ∧
      ∃ t, step commitV13 = .next t) :=
  ⟨⟨by decide, by decide, by decide, _, rfl⟩, ⟨by decide, by decide, by decide, inv_commitV13, _, rfl⟩⟩

theorem witness_CorrBoundUnreachable :
    loopV13.Inv ∧ loopV13.phase = .corr ∧ ∃ t, exec .corr loopV13 = .next t :=
  ⟨inv_loopV13, by decide, _, rfl⟩

theorem witness_ZeroStaysZero :
    (idleAt 0#64).Inv ∧ (idleAt 0#64).x = 0#64 ∧ (idleAt 0#64).ports.reset = false ∧
    ¬((idleAt 0#64).ready = true ∧ (idleAt 0#64).ports.cmdValid = true ∧ cmdOp (idleAt 0#64).ports.cmd = 0#1) ∧
    ∃ t, step (idleAt 0#64) = .next t :=
  ⟨inv_idleAt_0, by decide, by decide, by decide, _, rfl⟩

/-- The four cases of R107, at V2, W4 (`rlo = M`), V13 and W11 (`rlo + 59 * q = M`). -/
theorem witness_CorrectionCount :
    ((upperPart (recombined Config.A 1#64)).toNat = 0 ∧
      (lowerPart (recombined Config.A 1#64)).toNat < Config.M) ∧
    ((upperPart (recombined 1#64 0xFFFFFFFFFFFFFFC5#64)).toNat = 0 ∧
      (lowerPart (recombined 1#64 0xFFFFFFFFFFFFFFC5#64)).toNat = Config.M) ∧
    ((upperPart (recombined Config.A 0xFFFFFFFFFFFFFFC4#64)).toNat = 45 ∧
      (lowerPart (recombined Config.A 0xFFFFFFFFFFFFFFC4#64)).toNat + 59 * 45 < Config.M) ∧
    ((upperPart (recombined Config.A 0xFFFFFFFFFFFFFFC5#64)).toNat = 44 ∧
      (lowerPart (recombined Config.A 0xFFFFFFFFFFFFFFC5#64)).toNat + 59 * 44 = Config.M) := by decide

/-- At `x = 1` (which does not subtract) and at the counterexample (which does). -/
theorem witness_WiredQZeroNeverSubtracts :
    (1#64 : Word).toNat < Config.M ∧ (upperPart (recombined Config.A 1#64)).toNat = 0 ∧
    (118055562673796743#64 : Word).toNat < Config.M ∧
    (upperPart (recombined Config.A 118055562673796743#64)).toNat = 0 := by decide

theorem witness_RecombinedBounds : (0xFFFFFFFFFFFFFFC4#64 : Word).toNat < Config.M := by decide

/-- `q` at 0 (V2), 1 (V6) and 2 (V16). -/
theorem witness_ValueAfterPrecorr :
    (upperPart (recombined Config.A 1#64)).toNat = 0 ∧
    (upperPart (recombined Config.A 0x0800000000000000#64)).toNat = 1 ∧
    (upperPart (recombined Config.A 0x0A00000000000000#64)).toNat = 2 := by decide

/-- `R = M`, and `k` at 1 and 99. -/
theorem witness_NoWideArithmeticNeeded :
    atLeastM 0x00FFFFFFFFFFFFFFC5#71 = true ∧ preK 0x020000000000000000#71 = 1 ∧
    preK 0x640000000000000005#71 = 99 := by decide

/-- The narrowest register, with `q` at 0 and at 59. -/
theorem witness_UnsignedKAgrees :
    (7 : Nat) ≤ 7 ∧ (upperPart 5#71).toNat ≤ 59 ∧ (upperPart 0x3B0000000000000000#71).toNat = 59 := by decide

theorem witness_StepTransaction :
    let s := presented (idleAt 0xFFFFFFFFFFFFFFC4#64) (.step 0#64)
    s.phase = .idle ∧ s.fault = false ∧ s.seeded = true ∧ s.x.toNat < Config.M ∧
      s.ports = presentTurn (cmdWord 1#1 0#64) ∧ s.noResetIn 9 := by
  unfold State.noResetIn
  decide

theorem witness_BusyEnds : (busyAt .mul 1#64).Inv ∧ (busyAt .mul 1#64).busy = true ∧ (busyAt .mul 1#64).noResetIn 8 :=
  ⟨inv_mul, by decide, by unfold State.noResetIn; decide⟩

theorem witness_HeldCommandIsTaken :
    let s : State := { busyAt .mul 1#64 with inputs := List.replicate 9 (presentTurn 9#65) ++ [resetTurn] }
    s.Inv ∧ s.busy = true ∧ s.inputs = List.replicate 9 (presentTurn 9#65) ++ [resetTurn] :=
  ⟨⟨by decide, by decide, by decide, by decide, by decide, trivial⟩, by decide, rfl⟩

theorem witness_IteratedSteps :
    let s : State := { idleAt 1#64 with inputs := (List.replicate 3 stepTurns).flatten }
    s.phase = .idle ∧ s.fault = false ∧ s.seeded = true ∧ s.x.toNat < Config.M ∧
      s.inputs = (List.replicate 3 stepTurns).flatten := by decide

/-- An unseeded block, at the largest value. -/
theorem witness_FastStepOnTheBlock :
    State.reset.phase = .idle ∧ State.reset.fault = false ∧ 18446744073709551556 < Config.M := by decide

theorem witness_WorkingRegistersHidden :
    (idleAt 7#64).sameToHost { idleAt 7#64 with p := 5#128, r := 6#71, cnt := 3#2 } ∧
    (idleAt 7#64).phase = .idle := by
  unfold State.sameToHost
  decide

end Sys2Proof.Tests
end

/-! # The state: what writes each register, the invariant, the status word, and what the host cannot see -/

namespace Sys2Proof.Machine

/-! ### What an instruction can do

`Effect s i t` lists, over all instructions at once, every way in which `exec` can take `s` to `t`, with the condition
under which it does. The frame statements and the invariant are case splits over it. -/

/-- The effects of the instructions on a state, each with its enabling condition (R72, R73, R80 to R89). -/
inductive Effect (s : State) : Instr → State → Prop
  /-- The instruction is not enabled, or the phase has no step of its own (R70, R80, R81, R89). -/
  | keep {i : Instr} : Effect s i s
  | load {v : Word} (hr : s.ready = true) (hv : v.toNat < Config.M) :
      Effect s (.seed v) { s with x := v, seeded := true, phase := .idle }
  | seedRange {v : Word} (hr : s.ready = true) (hv : Config.M ≤ v.toNat) :
      Effect s (.seed v) (s.raise .seedRange)
  | start {d : Word} (hr : s.ready = true) (hs : s.seeded = true) : Effect s (.step d) (s.goto .mul)
  | unseeded {d : Word} (hr : s.ready = true) (hs : s.seeded = false) :
      Effect s (.step d) (s.raise .unseeded)
  | mul (hp : s.phase = .mul) (hf : s.fault = false) :
      Effect s .mul { s with p := product Config.A s.x, phase := .split }
  | split (hp : s.phase = .split) (hf : s.fault = false) :
      Effect s .split { s with hi := productHi s.p, lo := productLo s.p, phase := .recomb }
  | recomb (hp : s.phase = .recomb) (hf : s.fault = false) :
      Effect s .recomb { s with r := recombine s.hi s.lo, phase := .precorr }
  | precorr (hp : s.phase = .precorr) (hf : s.fault = false) :
      Effect s .precorr { s with k := preKReg s.r, r := preCorrect s.r, cnt := 0#2, phase := .corr }
  | corrBound (hp : s.phase = .corr) (hf : s.fault = false) (hr : Config.M ≤ s.r.toNat)
      (hn : s.cnt.toNat = 3) : Effect s .corr (s.raise .corrBound)
  | subtract (hp : s.phase = .corr) (hf : s.fault = false) (hr : Config.M ≤ s.r.toNat)
      (hn : s.cnt.toNat < 3) :
      Effect s .corr { s with r := subtractM s.r, cnt := s.cnt + 1#2, phase := .corr }
  | loopEnd (hp : s.phase = .corr) (hf : s.fault = false) (hr : s.r.toNat < Config.M) :
      Effect s .corr (s.goto .commit)
  | commit (hp : s.phase = .commit) (hf : s.fault = false) :
      Effect s .commit { s with x := lowerPart s.r, phase := .idle }

theorem exec_effect {i : Instr} {s t : State} (h : exec i s = .next t) : Effect s i t := by
  cases i with
  | seed v =>
    obtain ⟨hr, hv, rfl⟩ | ⟨hr, hv, rfl⟩ | ⟨-, rfl⟩ := exec_seed_cases h
    · exact .load hr hv
    · exact .seedRange hr hv
    · exact .keep
  | step d =>
    obtain ⟨hr, hs, rfl⟩ | ⟨hr, hs, rfl⟩ | ⟨-, rfl⟩ := exec_step_cases h
    · exact .start hr hs
    · exact .unseeded hr hs
    · exact .keep
  | idle => exact exec_idle_cases h ▸ .keep
  | mul =>
    obtain ⟨⟨hp, hf⟩, rfl⟩ | ⟨-, rfl⟩ := exec_mul_cases h
    · exact .mul hp hf
    · exact .keep
  | split =>
    obtain ⟨⟨hp, hf⟩, rfl⟩ | ⟨-, rfl⟩ := exec_split_cases h
    · exact .split hp hf
    · exact .keep
  | recomb =>
    obtain ⟨⟨hp, hf⟩, rfl⟩ | ⟨-, rfl⟩ := exec_recomb_cases h
    · exact .recomb hp hf
    · exact .keep
  | precorr =>
    obtain ⟨⟨hp, hf⟩, rfl⟩ | ⟨-, rfl⟩ := exec_precorr_cases h
    · exact .precorr hp hf
    · exact .keep
  | corr =>
    obtain ⟨⟨hp, hf⟩, ⟨hr, hn, rfl⟩ | ⟨hr, hn, rfl⟩ | ⟨hr, rfl⟩⟩ | ⟨-, rfl⟩ := exec_corr_cases h
    · exact .corrBound hp hf hr hn
    · exact .subtract hp hf hr hn
    · exact .loopEnd hp hf hr
    · exact .keep
  | commit =>
    obtain ⟨⟨hp, hf⟩, rfl⟩ | ⟨-, rfl⟩ := exec_commit_cases h
    · exact .commit hp hf
    · exact .keep
  | faulted => exact exec_faulted_cases h ▸ .keep

theorem exec_answers (i : Instr) (s : State) : ∃ t, exec i s = .next t := by
  cases i <;> exact ⟨_, rfl⟩

/-! ### Which instruction writes which register -/

/-- Settles O28: of the effects only `load` and `commit` write `X`. -/
theorem xWriters : Obligations.XWriters := by
  intro i s t h hx
  cases exec_effect h with
  | load hr hv => exact .inl ⟨_, rfl, hv, hr, rfl⟩
  | commit hp hf => exact .inr ⟨rfl, hp, hf, lowerPart_toNat s.r⟩
  | _ => exact absurd rfl hx

/-- Settles O29: of the effects only `load` writes `SEEDED`. -/
theorem seededWriters : Obligations.SeededWriters := by
  intro i s t h
  cases exec_effect h with
  | load hr hv => exact .inr ⟨rfl, _, rfl, hv, hr⟩
  | _ => exact .inl rfl

/-- Settles O30: effect by effect, the registers it does not name are those of the state before. -/
theorem workingRegisterWriters : Obligations.WorkingRegisterWriters := by
  intro i s t h
  cases exec_effect h <;> simp

/-! ### A fault is left only by reset -/

/-- Every effect but `keep` has `FAULT = 0` in its enabling condition. -/
theorem Effect.eq_of_fault {i : Instr} {s t : State} (h : Effect s i t) (hf : s.fault = true) : t = s := by
  cases h with
  | keep => rfl
  | load hr | seedRange hr | start hr | unseeded hr => simp [s.ready_iff, hf] at hr
  | _ => simp_all

theorem exec_of_fault {s : State} (hf : s.fault = true) (i : Instr) : exec i s = .next s := by
  obtain ⟨t, ht⟩ := exec_answers i s
  rw [ht, (exec_effect ht).eq_of_fault hf]

theorem step_of_fault {s : State} (hf : s.fault = true) (h0 : s.ports.reset = false) :
    step s = .next s.nextTurn := by
  simp [step, h0, exec_of_fault (s := s.nextTurn) hf]

/-- Settles O32, by induction on the number of turns. -/
theorem faultIsSticky : Obligations.FaultIsSticky := by
  intro n
  induction n with
  | zero => intro s _ _; rfl
  | succ n ih =>
    intro s hf h0
    rw [run_succ (step_of_fault hf h0.ports), ih s.nextTurn hf (h0.tail rfl), State.nextTurn_inputs,
      List.drop_tail]
    rfl

/-! ### The invariant: the working registers on the way through a STEP -/

theorem preCorrect_mod (r : BitVec 71) : (preCorrect r).toNat % Config.M = r.toNat % Config.M := by
  by_cases hq : 2 ≤ r.toNat / 2 ^ 64 ∧ r.toNat / 2 ^ 64 ≤ 100
  · rw [preCorrect_toNat_of_test hq, config_M]
    omega
  · rw [preCorrect_of_not_test hq]

/-- `2^65 + 3422`: one unit of `2^64`, a full low part, and `59 * 58` (R106). -/
theorem preCorrect_lt {r : BitVec 71} (h : r.toNat < 60 * 2 ^ 64) : (preCorrect r).toNat < 2 ^ 65 + 3422 := by
  by_cases hq : 2 ≤ r.toNat / 2 ^ 64 ∧ r.toNat / 2 ^ 64 ≤ 100
  · rw [preCorrect_toNat_of_test hq]
    omega
  · rw [preCorrect_of_not_test hq]
    omega

theorem recombine_lt (hi lo : Word) : (recombine hi lo).toNat < 60 * 2 ^ 64 := by
  have := hi.isLt
  have := lo.isLt
  rw [recombine_toNat]
  omega

theorem refStep_lt (a x : Word) : refStep a x < Config.M :=
  Nat.mod_lt _ (by decide)

section Chain

variable {s : State}

theorem State.chain_of_split (hp : s.phase = .split) :
    s.chain ↔ s.p.toNat = Config.A.toNat * s.x.toNat := by
  simp [State.chain, hp]

theorem State.chain_of_recomb (hp : s.phase = .recomb) :
    s.chain ↔ s.hi.toNat * 2 ^ 64 + s.lo.toNat = Config.A.toNat * s.x.toNat := by
  simp [State.chain, hp]

theorem State.chain_of_precorr (hp : s.phase = .precorr) :
    s.chain ↔ s.r.toNat % Config.M = refStep Config.A s.x ∧ s.r.toNat < 60 * 2 ^ 64 := by
  simp [State.chain, hp]

theorem State.chain_of_corr (hp : s.phase = .corr) :
    s.chain ↔ s.r.toNat % Config.M = refStep Config.A s.x ∧
      s.r.toNat + s.cnt.toNat * Config.M < 2 ^ 65 + 3422 := by
  simp [State.chain, hp]

theorem State.chain_of_commit (hp : s.phase = .commit) : s.chain ↔ s.r.toNat = refStep Config.A s.x := by
  simp [State.chain, hp]

/-- MUL establishes the product of the chain. -/
theorem State.chain_mul (s : State) : State.chain { s with p := product Config.A s.x, phase := .split } :=
  (State.chain_of_split rfl).mpr (product_toNat Config.A s.x)

theorem State.chain_split (h : s.chain) (hp : s.phase = .split) :
    State.chain { s with hi := productHi s.p, lo := productLo s.p, phase := .recomb } := by
  have hprod := (chain_of_split hp).mp h
  refine (chain_of_recomb rfl).mpr ?_
  simp only [productHi_toNat, productLo_toNat]
  omega

/-- RECOMB keeps the residue modulo `M` (R102). -/
theorem State.chain_recomb (h : s.chain) (hp : s.phase = .recomb) :
    State.chain { s with r := recombine s.hi s.lo, phase := .precorr } := by
  have hprod := (chain_of_recomb hp).mp h
  have hlo := s.lo.isLt
  refine (chain_of_precorr rfl).mpr ⟨?_, recombine_lt s.hi s.lo⟩
  rw [recombine_toNat, refStep, ← hprod, ← recombine_mod (s.hi.toNat * 2 ^ 64 + s.lo.toNat)]
  congr 1
  omega

theorem State.chain_precorr (h : s.chain) (hp : s.phase = .precorr) :
    State.chain { s with k := preKReg s.r, r := preCorrect s.r, cnt := 0#2, phase := .corr } := by
  obtain ⟨hmod, hlt⟩ := (chain_of_precorr hp).mp h
  exact (chain_of_corr rfl).mpr ⟨(preCorrect_mod s.r).trans hmod, by simpa using preCorrect_lt hlt⟩

theorem State.chain_subtract (h : s.chain) (hp : s.phase = .corr) (hr : Config.M ≤ s.r.toNat)
    (hn : s.cnt.toNat < 3) :
    State.chain { s with r := subtractM s.r, cnt := s.cnt + 1#2, phase := .corr } := by
  obtain ⟨hmod, hlt⟩ := (chain_of_corr hp).mp h
  have hcnt : (s.cnt + 1#2).toNat = s.cnt.toNat + 1 := by
    rw [BitVec.toNat_add, show (1#2).toNat = 1 from rfl]
    omega
  refine (chain_of_corr rfl).mpr ⟨?_, ?_⟩
  · simp only [subtractM_toNat, ← hmod]
    exact (Nat.mod_eq_sub_mod hr).symm
  · simp only [subtractM_toNat, hcnt, config_M] at hr hlt ⊢
    omega

theorem State.chain_loopEnd (h : s.chain) (hp : s.phase = .corr) (hr : s.r.toNat < Config.M) :
    (s.goto .commit).chain := by
  obtain ⟨hmod, -⟩ := (chain_of_corr hp).mp h
  exact (chain_of_commit rfl).mpr ((Nat.mod_eq_of_lt hr).symm.trans hmod)

/-- In the loop, `R >= M` leaves room for at most one earlier subtraction (R107). -/
theorem State.cnt_lt_of_chain (h : s.chain) (hp : s.phase = .corr) (hr : Config.M ≤ s.r.toNat) :
    s.cnt.toNat < 2 := by
  obtain ⟨-, hlt⟩ := (chain_of_corr hp).mp h
  rw [config_M] at hr hlt
  omega

theorem State.lowerPart_lt_of_chain (h : s.chain) (hp : s.phase = .commit) :
    (lowerPart s.r).toNat < Config.M := by
  have hr := (chain_of_commit hp).mp h
  rw [lowerPart_toNat, hr]
  exact lt_of_le_of_lt (Nat.mod_le _ _) (refStep_lt Config.A s.x)

end Chain

/-! ### The invariant: holds after a reset, and every step keeps it -/

theorem inv_of_idle {s : State} (hp : s.phase = .idle) (hf : s.fault = false) (hc : s.cause = .none)
    (hx : s.seeded = true → s.x.toNat < Config.M) : s.Inv where
  range := hx
  faulted := by simp [hp, hf]
  caused := by simp [hc, hf]
  inBound := by simp [hc]
  busySeeded := by simp [s.busy_iff, hp]
  onChain := by simp [State.chain, hp]

/-- Settles O35. -/
theorem invAtReset : Obligations.InvAtReset :=
  inv_of_idle rfl rfl rfl nofun

theorem resetEvent_inv (s : State) : s.resetEvent.Inv :=
  inv_of_idle rfl rfl rfl nofun

section Inv

variable {s : State} (h : s.Inv)
include h

theorem State.Inv.nextTurn : s.nextTurn.Inv :=
  ⟨h.range, h.faulted, h.caused, h.inBound, h.busySeeded, h.onChain⟩

/-- Fault entry for a cause that can occur. -/
theorem State.Inv.raise {c : Cause} (hn : c ≠ .none) (hb : c ≠ .corrBound) : (s.raise c).Inv where
  range := h.range
  faulted := by simp
  caused := by simp [hn]
  inBound := hb
  busySeeded := by simp [State.busy_iff]
  onChain := trivial

/-- A block without a fault moves to another phase of the STEP: only the working registers and `PHASE` change, and they
are on the chain of the new phase. -/
theorem State.Inv.advance {t : State} (hf : s.fault = false) (hs : s.seeded = true) (ht : t.chain)
    (htx : t.x = s.x := by rfl) (hts : t.seeded = s.seeded := by rfl) (htf : t.fault = s.fault := by rfl)
    (htc : t.cause = s.cause := by rfl) (htp : t.phase ≠ .faulted := by nofun) : t.Inv where
  range := fun _ => htx ▸ h.range hs
  faulted := by simp [htf, hf, htp]
  caused := by rw [htc, htf]; exact h.caused
  inBound := htc ▸ h.inBound
  busySeeded := fun _ => hts.trans hs
  onChain := ht

theorem State.Inv.seeded_of_phase {ph : Phase} (hp : s.phase = ph) (hb : phaseBusy ph = true) :
    s.seeded = true :=
  h.busySeeded (by rw [State.busy, hp, hb])

theorem State.Inv.cause_none (hf : s.fault = false) : s.cause = .none :=
  h.caused.mpr hf

end Inv

theorem Effect.keeps_inv {i : Instr} {s t : State} (h : Effect s i t) (hs : s.Inv) : t.Inv := by
  have hc := hs.onChain
  cases h with
  | keep => exact hs
  | load hr hv =>
    obtain ⟨-, hf⟩ := s.ready_iff.mp hr
    exact inv_of_idle rfl hf (hs.cause_none hf) fun _ => hv
  | seedRange => exact hs.raise nofun nofun
  | start hr hseed => exact hs.advance (s.ready_iff.mp hr).2 hseed trivial
  | unseeded => exact hs.raise nofun nofun
  | mul hp hf =>
    exact hs.advance hf (hs.seeded_of_phase hp rfl) s.chain_mul
  | split hp hf =>
    exact hs.advance hf (hs.seeded_of_phase hp rfl) (State.chain_split hc hp)
  | recomb hp hf =>
    exact hs.advance hf (hs.seeded_of_phase hp rfl) (State.chain_recomb hc hp)
  | precorr hp hf =>
    exact hs.advance hf (hs.seeded_of_phase hp rfl) (State.chain_precorr hc hp)
  | corrBound hp hf hr hn =>
    have := State.cnt_lt_of_chain hc hp hr
    omega
  | subtract hp hf hr hn =>
    exact hs.advance hf (hs.seeded_of_phase hp rfl) (State.chain_subtract hc hp hr hn)
  | loopEnd hp hf hr =>
    exact hs.advance hf (hs.seeded_of_phase hp rfl) (State.chain_loopEnd hc hp hr)
  | commit hp hf =>
    exact inv_of_idle rfl hf (hs.cause_none hf) fun _ => State.lowerPart_lt_of_chain hc hp

/-- Settles O36: the reset event gives an idle block, and every effect of an instruction keeps the invariant. -/
theorem stepKeepsInv : Obligations.StepKeepsInv := by
  intro s t hs h
  obtain ⟨-, rfl⟩ | ⟨-, he⟩ := step_cases h
  · exact resetEvent_inv s.nextTurn
  · exact (exec_effect he).keeps_inv hs.nextTurn

/-! ### The status word -/

/-- The fields of the word that STATUS concatenates, over its 2^6 values. -/
theorem status_fields_of_flags : ∀ (c : BitVec 2) (fault valid busy ready : Bool),
    let w : BitVec 6 :=
      c ++ BitVec.ofBool fault ++ BitVec.ofBool valid ++ BitVec.ofBool busy ++ BitVec.ofBool ready
    w.getLsbD 0 = ready ∧ w.getLsbD 1 = busy ∧ w.getLsbD 2 = valid ∧ w.getLsbD 3 = fault ∧
      w.extractLsb' 4 2 = c := by
  decide

theorem status_fields (s : State) :
    s.status.getLsbD 0 = s.ready ∧ s.status.getLsbD 1 = s.busy ∧ s.status.getLsbD 2 = s.seeded ∧
      s.status.getLsbD 3 = s.fault ∧ s.status.extractLsb' 4 2 = causeCode s.cause :=
  status_fields_of_flags (causeCode s.cause) s.fault s.seeded s.busy s.ready

theorem reset_status : State.reset.status = 0b000001#6 := by decide

theorem State.Inv.one_flag {s : State} (h : s.Inv) :
    (s.ready = true ∧ s.busy = false ∧ s.fault = false) ∨
    (s.ready = false ∧ s.busy = true ∧ s.fault = false) ∨
    (s.ready = false ∧ s.busy = false ∧ s.fault = true) := by
  have hfaulted := h.faulted
  cases hf : s.fault with
  | true =>
    have hp : s.phase = .faulted := hfaulted.mp hf
    simp [State.ready, State.busy, phaseBusy, hp]
  | false =>
    have hp : s.phase ≠ .faulted := fun hp => by simp [hfaulted.mpr hp] at hf
    by_cases hidle : s.phase = .idle
    · simp [State.ready, State.busy, phaseBusy, hidle, hf]
    · simp [s.not_ready_iff, s.busy_iff, hidle, hp]

/-- Settles O33: the flags behind the bits are those of R30, and the invariant pairs FAULT with PHASE 7. -/
theorem statusWord : Obligations.StatusWord := by
  refine ⟨fun s => ?_, reset_status, fun s => State.Inv.one_flag⟩
  obtain ⟨hready, hbusy, hvalid, hfault, hcause⟩ := status_fields s
  rw [hready, hbusy, hvalid, hfault]
  exact ⟨s.ready_iff, s.busy_iff, Iff.rfl, Iff.rfl, hcause⟩

/-- Settles O13. -/
theorem resetValues : Obligations.ResetValues :=
  ⟨rfl, rfl, rfl, rfl, reset_status⟩

/-! ### What the host cannot see

Two blocks in the same phase are alike when they agree on every working register that the rest of the STEP still reads;
the other working registers may differ. Every turn keeps this relation, and it makes the ports equal. -/

/-- The working registers that a STEP in the phase `ph` reads before it writes them are equal. -/
def liveAgree (ph : Phase) (s t : State) : Prop :=
  match ph with
  | .idle => True
  | .mul => True
  | .split => s.p = t.p
  | .recomb => s.hi = t.hi ∧ s.lo = t.lo
  | .precorr => s.r = t.r
  | .corr => s.r = t.r ∧ s.cnt = t.cnt
  | .commit => s.r = t.r
  | .faulted => True

/-- Two states that no later turn can make the host tell apart. -/
structure State.Alike (s t : State) : Prop where
  same : s.sameToHost t
  live : liveAgree s.phase s t

section Alike

variable {s t : State}

section SameToHost

variable (h : s.sameToHost t)
include h

theorem State.sameToHost.ready_eq : s.ready = t.ready := by
  obtain ⟨-, hphase, -, hfault, -⟩ := h
  simp [State.ready, hphase, hfault]

theorem State.sameToHost.at_eq (ph : Phase) : s.at ph = t.at ph := by
  obtain ⟨-, hphase, -, hfault, -⟩ := h
  simp [State.at, hphase, hfault]

theorem State.sameToHost.read_eq : s.read = t.read := by
  have hready := State.sameToHost.ready_eq h
  obtain ⟨hx, hphase, hseeded, hfault, hcause, -⟩ := h
  simp [State.read, State.busy, hready, hx, hphase, hseeded, hfault, hcause]

theorem State.sameToHost.ports_eq : s.ports = t.ports := by
  obtain ⟨-, -, -, -, -, hinputs, -⟩ := h
  simp [State.ports, hinputs]

theorem State.sameToHost.fetch_eq : s.fetch = t.fetch := by
  have hready := State.sameToHost.ready_eq h
  have hports := State.sameToHost.ports_eq h
  obtain ⟨-, hphase, -⟩ := h
  simp [State.fetch, State.acceptEnabled, hready, hports, hphase]

theorem State.sameToHost.goto (ph : Phase) : (s.goto ph).sameToHost (t.goto ph) := by
  obtain ⟨hx, -, hrest⟩ := h
  exact ⟨hx, rfl, hrest⟩

theorem State.sameToHost.raise (c : Cause) : (s.raise c).Alike (t.raise c) := by
  obtain ⟨hx, -, hseeded, -, -, hinputs, hresets⟩ := h
  exact ⟨⟨hx, rfl, hseeded, rfl, rfl, hinputs, hresets⟩, trivial⟩

theorem State.sameToHost.load (v : Word) :
    State.Alike { s with x := v, seeded := true, phase := .idle }
      { t with x := v, seeded := true, phase := .idle } := by
  obtain ⟨-, -, -, hrest⟩ := h
  exact ⟨⟨rfl, rfl, rfl, hrest⟩, trivial⟩

/-- The free values after a reset event depend on the count of resets alone (log entry 3). -/
theorem State.sameToHost.resetEvent : s.resetEvent.Alike t.resetEvent := by
  obtain ⟨-, -, -, -, -, hinputs, hresets⟩ := h
  exact ⟨⟨congrArg Config.resetX hresets, rfl, rfl, rfl, rfl, hinputs, congrArg Nat.succ hresets⟩, trivial⟩

theorem State.sameToHost.nextTurn : s.nextTurn.sameToHost t.nextTurn := by
  obtain ⟨hx, hphase, hseeded, hfault, hcause, hinputs, hresets⟩ := h
  exact ⟨hx, hphase, hseeded, hfault, hcause, congrArg List.tail hinputs, hresets⟩

end SameToHost

theorem State.Alike.accept {e : State → State} (h : s.Alike t) (he : (e s).Alike (e t)) :
    (s.accept e).Alike (t.accept e) := by
  rw [State.accept, State.accept, ← h.same.ready_eq]
  split
  · exact he
  · exact h

theorem State.Alike.perform {ph : Phase} {e : State → State} (h : s.Alike t)
    (he : liveAgree ph s t → (e s).Alike (e t)) : (s.perform ph e).Alike (t.perform ph e) := by
  rw [State.perform, State.perform, ← h.same.at_eq]
  split
  next hat =>
    obtain ⟨hp, -⟩ := (s.at_iff ph).mp hat
    exact he (hp ▸ h.live)
  · exact h

/-- The loop's test and count read `R` and `CNT` alone. -/
theorem alike_corr (h : s.Alike t) :
    ∃ u v, exec .corr s = .next u ∧ exec .corr t = .next v ∧ u.Alike v := by
  obtain ⟨hx, -, hseeded, hrest⟩ := h.same
  refine ⟨_, _, rfl, rfl, h.perform ?_⟩
  rintro ⟨hr, hcnt⟩
  rw [← hr, ← hcnt]
  split_ifs
  · exact h.same.raise .corrBound
  · exact ⟨⟨hx, rfl, hseeded, hrest⟩, rfl, rfl⟩
  · exact ⟨h.same.goto .commit, hr⟩

theorem alike_exec (h : s.Alike t) (i : Instr) :
    ∃ u v, exec i s = .next u ∧ exec i t = .next v ∧ u.Alike v := by
  obtain ⟨hx, -, hseeded, hrest⟩ := h.same
  cases i with
  | seed v =>
    refine ⟨_, _, rfl, rfl, h.accept ?_⟩
    split_ifs
    · exact h.same.load v
    · exact h.same.raise .seedRange
  | step d =>
    refine ⟨_, _, rfl, rfl, h.accept ?_⟩
    rw [← hseeded]
    split_ifs
    · exact ⟨h.same.goto .mul, trivial⟩
    · exact h.same.raise .unseeded
  | idle => exact ⟨_, _, rfl, rfl, h⟩
  | mul =>
    exact ⟨_, _, rfl, rfl, h.perform fun _ => ⟨⟨hx, rfl, hseeded, hrest⟩, congrArg (product Config.A) hx⟩⟩
  | split =>
    exact ⟨_, _, rfl, rfl, h.perform fun hp =>
      ⟨⟨hx, rfl, hseeded, hrest⟩, congrArg productHi hp, congrArg productLo hp⟩⟩
  | recomb =>
    exact ⟨_, _, rfl, rfl, h.perform fun ⟨hhi, hlo⟩ =>
      ⟨⟨hx, rfl, hseeded, hrest⟩, congrArg₂ recombine hhi hlo⟩⟩
  | precorr =>
    exact ⟨_, _, rfl, rfl, h.perform fun hr => ⟨⟨hx, rfl, hseeded, hrest⟩, congrArg preCorrect hr, rfl⟩⟩
  | corr => exact alike_corr h
  | commit =>
    exact ⟨_, _, rfl, rfl, h.perform fun hr =>
      ⟨⟨congrArg lowerPart hr, rfl, hseeded, hrest⟩, trivial⟩⟩
  | faulted => exact ⟨_, _, rfl, rfl, h⟩

theorem alike_step (h : s.Alike t) :
    ∃ u v, step s = .next u ∧ step t = .next v ∧ u.Alike v := by
  have hnext : s.nextTurn.Alike t.nextTurn := ⟨h.same.nextTurn, h.live⟩
  rw [step, step, ← h.same.ports_eq, ← h.same.fetch_eq]
  split
  · exact ⟨_, _, rfl, rfl, hnext.same.resetEvent⟩
  · exact alike_exec hnext (decode s.fetch)

theorem alike_run (h : s.Alike t) (n : Nat) :
    ∃ u v, run n s = .next u ∧ run n t = .next v ∧ u.Alike v := by
  induction n generalizing s t with
  | zero => exact ⟨s, t, rfl, rfl, h⟩
  | succ n ih =>
    obtain ⟨s', t', hs, ht, h'⟩ := alike_step h
    rw [run_succ hs, run_succ ht]
    exact ih h'

end Alike

/-- Settles O53: in IDLE no working register is live, so the two states are alike, and any run keeps them so. -/
theorem workingRegistersHidden : Obligations.WorkingRegistersHidden := by
  intro n s t hsame hidle
  have halike : s.Alike t := ⟨hsame, hidle ▸ trivial⟩
  obtain ⟨u, v, hu, hv, h⟩ := alike_run halike n
  exact ⟨u, v, hu, hv, h.same.read_eq⟩

end Sys2Proof.Machine

/-! # The output port during a STEP -/

namespace Sys2Proof.Machine

section XOut

variable {s t : State}

theorem State.not_ready_of_busy (h : s.busy = true) : s.ready = false := by
  obtain ⟨hidle, -⟩ := s.busy_iff.mp h
  exact s.not_ready_iff.mpr fun ⟨hp, _⟩ => hidle hp

/-- Of the two writers of `X`, SEED needs a ready block and COMMIT its phase (R21). -/
theorem exec_keeps_x_of_not_ready {i : Instr} (h : exec i s = .next t) (hr : s.ready = false)
    (hp : s.phase ≠ .commit) : t.x = s.x := by
  by_contra hx
  obtain ⟨-, -, -, hready, -⟩ | ⟨-, hcommit, -⟩ := xWriters i s t h hx
  · simp [hr] at hready
  · exact hp hcommit

/-- The one writer of `SEEDED` needs a ready block (R28). -/
theorem exec_keeps_seeded_of_not_ready {i : Instr} (h : exec i s = .next t) (hr : s.ready = false) :
    t.seeded = s.seeded := by
  obtain hkept | ⟨-, -, -, -, hready⟩ := seededWriters i s t h
  · exact hkept
  · simp [hr] at hready

theorem State.Inv.fault_of_busy (h : s.Inv) (hb : s.busy = true) : s.fault = false := by
  obtain ⟨-, hp⟩ := s.busy_iff.mp hb
  exact Bool.eq_false_of_not_eq_true (mt h.faulted.mp hp)

/-- What COMMIT writes to `X` is the generator's next state: `R` is that number, and it fits 64 bits (R88). -/
theorem State.lowerPart_of_chain (h : s.chain) (hp : s.phase = .commit) :
    (lowerPart s.r).toNat = refStep Config.A s.x := by
  have hlt := refStep_lt Config.A s.x
  rw [config_M] at hlt
  rw [lowerPart_toNat, (chain_of_commit hp).mp h]
  omega

theorem exec_commit_of_phase (hp : s.phase = .commit) (hf : s.fault = false) :
    exec .commit s = .next { s with x := lowerPart s.r, phase := .idle } :=
  congrArg Host.Outcome.next (State.perform_of_at ((s.at_iff .commit).mpr ⟨hp, hf⟩) _)

end XOut

/-- Settles O34: a busy block is not ready, so the turn runs the instruction of its phase; outside COMMIT that writes
neither `X` nor `SEEDED`, and at COMMIT the chain says what `R` holds. -/
theorem xOutDuringStep : Obligations.XOutDuringStep := by
  intro s t hbusy h0 h
  have hr : s.ready = false := State.not_ready_of_busy hbusy
  rw [step_of_not_ready hr h0] at h
  refine ⟨fun hp => ⟨?_, ?_⟩, fun hp hinv => ?_⟩
  · exact exec_keeps_x_of_not_ready (s := s.nextTurn) h hr hp
  · exact exec_keeps_seeded_of_not_ready (s := s.nextTurn) h hr
  · have hf : s.fault = false := hinv.fault_of_busy hbusy
    rw [hp, instrOfPhase, exec_commit_of_phase (s := s.nextTurn) hp hf] at h
    obtain rfl := next_inj h
    exact ⟨State.lowerPart_of_chain hinv.onChain hp, hinv.busySeeded hbusy, by simp [State.read, State.ready, hf]⟩

end Sys2Proof.Machine

/-! # The encoding: words and instructions, the rows of the opcode maps, and what the decoder refuses -/

namespace Sys2Proof

/-! ### Decoding undoes encoding

Every word of either format is the encoding of some instruction, so that encoding undoes decoding too. -/

theorem cmdWord_fields (w : CmdWord) : cmdWord (cmdOp w) (cmdData w) = w := by
  apply BitVec.eq_of_toNat_eq
  rw [cmdWord_toNat, cmdOp_toNat, cmdData_toNat]
  omega

theorem decode_cmd_of_op_zero {w : CmdWord} (h : cmdOp w = 0#1) : decode (.cmd w) = .seed (cmdData w) :=
  if_pos h

theorem decode_cmd_of_op_one {w : CmdWord} (h : cmdOp w = 1#1) : decode (.cmd w) = .step (cmdData w) :=
  if_neg (by rw [h]; decide)

@[simp] theorem decode_encode (i : Instr) : decode (encode i) = i := by
  cases i with
  | seed v => simp [encode, decode_cmd_of_op_zero]
  | step d => simp [encode, decode_cmd_of_op_one]
  | _ => rfl

theorem decode_of_encode_eq {i : Instr} {c : CodeWord} (h : encode i = c) : decode c = i :=
  h ▸ decode_encode i

theorem encode_instrOfPhase (p : Phase) : encode (instrOfPhase p) = .ph (phaseCode p) := by
  cases p <;> rfl

theorem exists_encode_eq (c : CodeWord) : ∃ i, encode i = c := by
  cases c with
  | cmd w =>
    have hw := cmdWord_fields w
    obtain h | h := BitVec.eq_zero_or_eq_one (cmdOp w)
    · exact ⟨.seed (cmdData w), by rw [encode, ← h, hw]⟩
    · exact ⟨.step (cmdData w), by rw [encode, ← h, hw]⟩
  | ph c => exact ⟨instrOfPhase (phaseOfCode c), by rw [encode_instrOfPhase, phaseCode_phaseOfCode]⟩

@[simp] theorem encode_decode (c : CodeWord) : encode (decode c) = c := by
  obtain ⟨i, rfl⟩ := exists_encode_eq c
  rw [decode_encode]

/-! ### The table's numbering of the bits -/

theorem readWord_number (c : CodeWord) : readWord c.format c.number = .ok c := by
  cases c with
  | cmd w => simpa [CodeWord.format, CodeWord.number] using readWord_cmd w.isLt
  | ph c => simpa [CodeWord.format, CodeWord.number] using readWord_ph c.isLt

theorem readWord_answers {f : Format} {w : Nat} (h : f.fits w = true) : ∃ c, readWord f w = .ok c := by
  cases f with
  | cmd => exact ⟨_, readWord_cmd ((Format.fits_iff .cmd w).mp h)⟩
  | ph => exact ⟨_, readWord_ph ((Format.fits_iff .ph w).mp h)⟩

theorem decodeTableWord_of_ok {nbits w : Nat} {c : CodeWord} (h : readWord (formatOfBits nbits) w = .ok c) :
    decodeTableWord nbits w = some (decode c) := by
  simp [decodeTableWord, tableWord, h]

theorem decodeTableWord_of_error {nbits w : Nat} {e : Reject} (h : readWord (formatOfBits nbits) w = .error e) :
    decodeTableWord nbits w = none := by
  simp [decodeTableWord, tableWord, h]

theorem decodeTableWord_number {nbits : Nat} {c : CodeWord} (h : formatOfBits nbits = c.format) :
    decodeTableWord nbits c.number = some (decode c) :=
  decodeTableWord_of_ok (h ▸ readWord_number c)

/-- Settles O4: decoding undoes encoding, every word is an encoding, and 72 and 8 bits are counts of the two formats. -/
theorem decodeEncodeAgree : Obligations.DecodeEncodeAgree := by
  refine ⟨fun i _ => ⟨decode_encode i, ?_⟩, encode_decode⟩
  rw [decodeTableWord_number, decode_encode]
  cases (encode i).format <;> rfl

theorem decodeTableWord_eq_none_iff (nbits w : Nat) :
    decodeTableWord nbits w = none ↔ 2 ^ (formatOfBits nbits).width ≤ w := by
  rw [← not_lt, ← Format.fits_iff, Bool.not_eq_true]
  cases hfits : (formatOfBits nbits).fits w with
  | false => simp [decodeTableWord_of_error (readWord_of_not_fits hfits)]
  | true =>
    obtain ⟨c, hc⟩ := readWord_answers hfits
    simp [decodeTableWord_of_ok hc]

theorem formatOfBits_of_le {nbits : Nat} (h : nbits ≤ 8) : formatOfBits nbits = .ph :=
  if_pos h

theorem formatOfBits_of_lt {nbits : Nat} (h : 8 < nbits) : formatOfBits nbits = .cmd :=
  if_neg (by omega)

/-- Settles O5: the decoder refuses what does not fit the format, and the count of bits gives the format. -/
theorem onlyTooWideRefused : Obligations.OnlyTooWideRefused := by
  intro nbits w
  rw [decodeTableWord_eq_none_iff]
  obtain h | h := Nat.lt_or_ge 8 nbits
  · simp [formatOfBits_of_lt h, Format.width, h]
  · simp [formatOfBits_of_le h, Format.width, h]

/-! ### The rows of the opcode maps

A word selects the row of the instruction it decodes to, because an encoding selects its instruction's row; and it
selects no other, because the rows of one format have one mask. -/

/-- The mask that all rows of a format have: bit 64 in R59, all three bits in R60. -/
def Format.mask : Format → Nat
  | .cmd => 0x10000000000000000
  | .ph => 0b111

theorem mapRow_maskBits (i : Instr) : (mapRow i).maskBits = (mapRow i).format.mask := by
  cases i <;> rfl

theorem mapRow_selects_iff (i : Instr) (c : CodeWord) :
    (mapRow i).selects c = true ↔
      c.format = (mapRow i).format ∧ c.number &&& c.format.mask = (mapRow i).matchBits := by
  rw [MapRow.selects, decide_eq_true_eq, mapRow_maskBits]
  exact and_congr_right fun h => by rw [h]

theorem mapRow_selects_encode (i : Instr) : (mapRow i).selects (encode i) = true := by
  cases i with
  | seed v => exact Laws.EncodingRow.seed v
  | step d => exact Laws.EncodingRow.step d
  | _ => rfl

theorem mapRow_selects_of_decode (c : CodeWord) : (mapRow (decode c)).selects c = true := by
  simpa using mapRow_selects_encode (decode c)

theorem mapRow_ext {i j : Instr} (hformat : (mapRow i).format = (mapRow j).format)
    (hmatch : (mapRow i).matchBits = (mapRow j).matchBits) : mapRow i = mapRow j := by
  have hmask : (mapRow i).maskBits = (mapRow j).maskBits := by
    rw [mapRow_maskBits, mapRow_maskBits, hformat]
  cases hi : mapRow i
  cases hj : mapRow j
  simp_all

theorem mapRow_eq_of_selects {i j : Instr} {c : CodeWord} (hi : (mapRow i).selects c = true)
    (hj : (mapRow j).selects c = true) : mapRow i = mapRow j := by
  obtain ⟨hformat, hmatch⟩ := (mapRow_selects_iff i c).mp hi
  obtain ⟨hformat', hmatch'⟩ := (mapRow_selects_iff j c).mp hj
  exact mapRow_ext (hformat.symm.trans hformat') (hmatch.symm.trans hmatch')

theorem mapRow_selects_iff_eq (i : Instr) (c : CodeWord) :
    (mapRow i).selects c = true ↔ mapRow i = mapRow (decode c) :=
  ⟨fun h => mapRow_eq_of_selects h (mapRow_selects_of_decode c), fun h => h ▸ mapRow_selects_of_decode c⟩

/-- The mask of R59 leaves `OP` alone. -/
theorem cmd_and_mask (w : CmdWord) : w.toNat &&& 0x10000000000000000 = (cmdOp w).toNat * 2 ^ 64 := by
  have := w.isLt
  rw [show 0x10000000000000000 = 2 ^ 64 from rfl, Nat.and_two_pow, Nat.toNat_testBit, cmdOp_toNat]
  omega

theorem cmdData_eq_ofNat (w : CmdWord) : cmdData w = BitVec.ofNat 64 (w.toNat % 2 ^ 64) := by
  rw [← cmdData_toNat, BitVec.ofNat_toNat, BitVec.setWidth_eq]

/-- Settles O3: the mask reads `OP`, which alone selects the row. -/
theorem commandMap : Obligations.CommandMap := by
  intro w
  refine ⟨?_, fun i => mapRow_selects_iff_eq i (.cmd w)⟩
  rw [cmd_and_mask, ← cmdData_eq_ofNat]
  obtain h | h := BitVec.eq_zero_or_eq_one (cmdOp w)
  · exact .inl ⟨by rw [h]; rfl, decode_cmd_of_op_zero h⟩
  · exact .inr ⟨by rw [h]; rfl, decode_cmd_of_op_one h⟩

/-- The mask of R60 keeps the whole code. -/
theorem ph_and_mask : ∀ c : PhaseCode, c.toNat &&& Format.ph.mask = c.toNat := by
  decide

theorem eq_ph_of_selects {i : Instr} {c : CodeWord} {p : PhaseCode} (hp : (mapRow i).selects (.ph p) = true)
    (hc : (mapRow i).selects c = true) : c = .ph p := by
  obtain ⟨hformat, hmatch⟩ := (mapRow_selects_iff i (.ph p)).mp hp
  obtain ⟨hformat', hmatch'⟩ := (mapRow_selects_iff i c).mp hc
  cases c with
  | cmd w => exact nomatch (hformat'.trans hformat.symm : Format.cmd = .ph)
  | ph c =>
    have hnumber : c.toNat = p.toNat :=
      (ph_and_mask c).symm.trans ((hmatch'.trans hmatch.symm).trans (ph_and_mask p))
    rw [BitVec.eq_of_toNat_eq hnumber]

/-- Settles O2: the row of a phase is selected by one word only, the encoding of the phase. -/
theorem phaseMap : Obligations.PhaseMap :=
  ⟨decode_phaseCode .idle, decode_phaseCode .mul, decode_phaseCode .split, decode_phaseCode .recomb,
    decode_phaseCode .precorr, decode_phaseCode .corr, decode_phaseCode .commit, decode_phaseCode .faulted,
    fun c i => ⟨fun h => (decode_of_encode_eq (eq_ph_of_selects h (mapRow_selects_encode i))).symm,
      fun h => h ▸ mapRow_selects_of_decode (.ph c)⟩⟩

/-! ### The worked encodings -/

/-- Settles O1: each word is the encoding of its instruction, and so decodes to it. -/
theorem workedEncodings : Obligations.WorkedEncodings := by
  have hone : encode (.seed 1#64) = .cmd 0x00000000000000001#65 := by decide
  have hlargest : encode (.seed 18446744073709551556#64) = .cmd 0x0FFFFFFFFFFFFFFC4#65 := by decide
  have houtOfRange : encode (.seed 18446744073709551557#64) = .cmd 0x0FFFFFFFFFFFFFFC5#65 := by decide
  have hstep : encode (.step 0#64) = .cmd 0x10000000000000000#65 := by decide
  have hstepData : encode (.step 0xDEADBEEF00000001#64) = .cmd 0x1DEADBEEF00000001#65 := by decide
  exact ⟨hone, decode_of_encode_eq hone, hlargest, decode_of_encode_eq hlargest, houtOfRange,
    decode_of_encode_eq houtOfRange, by decide, by decide, hstep, decode_of_encode_eq hstep,
    decode_of_encode_eq hstepData⟩

end Sys2Proof

/-! # The commands: one turn, what each command does, and a whole STEP -/

namespace Sys2Proof.Machine

section Turn

variable {s t : State}

/-! ### One turn -/

theorem step_of_reset (h0 : s.ports.reset = true) : step s = .next s.nextTurn.resetEvent :=
  if_pos h0

theorem step_of_no_reset (h0 : s.ports.reset = false) : step s = exec (decode s.fetch) s.nextTurn :=
  if_neg (Bool.eq_false_iff.mp h0)

/-- A ready block runs the command presented to it (R70). -/
theorem step_of_presented {w : CmdWord} (hr : s.ready = true) (hw : s.ports = presentTurn w) :
    step s = exec (decode (.cmd w)) s.nextTurn := by
  have hfetch : s.fetch = .cmd s.ports.cmd := fetch_of_accept (by rw [hw]; rfl) hr
  rw [step_of_no_reset (by rw [hw]; rfl), hfetch, hw]
  rfl

/-- The word of a turn is a SEED only when a ready block is presented one. -/
theorem presented_of_decode_fetch_seed {v : Word} (h : decode s.fetch = .seed v) :
    s.ports.cmdValid = true ∧ s.ready = true ∧ cmdOp s.ports.cmd = 0#1 := by
  have hword : s.fetch = .cmd (cmdWord 0#1 v) := by rw [← encode_decode s.fetch, h, encode]
  cases hv : s.ports.cmdValid with
  | false => simp [fetch_of_no_command hv] at hword
  | true =>
    cases hr : s.ready with
    | false => simp [fetch_of_not_ready hr] at hword
    | true =>
      rw [fetch_of_accept hv hr] at hword
      injection hword with hcmd
      exact ⟨rfl, rfl, by rw [hcmd, cmdOp_cmdWord]⟩

theorem withFetchWord_of_ok {nbits w : Nat} {c : CodeWord} (h : tableWord nbits w = .ok c) (s : State) :
    s.withFetchWord nbits w = s.place c := by
  simp [State.withFetchWord, h]

end Turn

/-- Settles O6. -/
theorem stepRunsDecoded : Obligations.StepRunsDecoded := by
  intro s h0
  refine ⟨step_of_no_reset h0, ?_, rfl⟩
  simp [State.fetch, State.acceptEnabled, s.ready_iff]

/-- Settles O7: a number that decodes is a word of its format, and the word that is placed is the word that is read. -/
theorem placedWordRuns : Obligations.PlacedWordRuns := by
  intro s nbits w i h
  cases hc : tableWord nbits w with
  | error e => simp [decodeTableWord_of_error hc] at h
  | ok c =>
    obtain rfl : decode c = i := Option.some.inj ((decodeTableWord_of_ok hc).symm.trans h)
    obtain ⟨hfetch, h0⟩ := fetch_place s c
    rw [withFetchWord_of_ok hc, step_of_no_reset h0, hfetch]

/-- Settles O8: both levels bring the reset event, or both leave the block to what its phase says. -/
theorem commandIgnoredWhenNotReady : Obligations.CommandIgnoredWhenNotReady := by
  intro s i j hr hij
  cases hi : i.reset with
  | true =>
    rw [step_of_reset (s := s.drive i) hi, step_of_reset (s := s.drive j) (hij ▸ hi), State.nextTurn_drive,
      State.nextTurn_drive]
  | false =>
    rw [step_of_not_ready (s := s.drive i) hr hi, step_of_not_ready (s := s.drive j) hr (hij ▸ hi),
      State.nextTurn_drive, State.nextTurn_drive, State.drive_phase, State.drive_phase]

/-- Settles O9. -/
theorem nopKeepsEverything : Obligations.NopKeepsEverything :=
  fun _ => step_of_nop

/-! ### The commands -/

/-- Settles O14: a ready block accepts the SEED, and the value passes the range check. -/
theorem seedLoads : Obligations.SeedLoads := by
  intro s v hp hf hv
  rw [exec, execSeed, State.accept_of_ready (s.ready_iff.mpr ⟨hp, hf⟩), if_pos ((seedInRange_iff v).mpr hv)]

/-- Settles O16: a ready block accepts the STEP, whose `DATA` its meaning does not read. -/
theorem stepStartsAtMul : Obligations.StepStartsAtMul := by
  intro s d hp hf hs
  rw [exec, execStep, State.accept_of_ready (s.ready_iff.mpr ⟨hp, hf⟩), if_pos hs, State.goto]

/-- Settles O18: the effect of either command is behind the test for a ready block. -/
theorem commandTurnedAway : Obligations.CommandTurnedAway := by
  intro s v h
  have hr : s.ready = false := s.not_ready_iff.mpr h
  exact ⟨congrArg Host.Outcome.next (State.accept_of_not_ready hr _),
    congrArg Host.Outcome.next (State.accept_of_not_ready hr _)⟩

/-- Settles O38: of the two writers of `X`, SEED would have to be presented, and COMMIT writes `(A * 0) mod M`. -/
theorem zeroStaysZero : Obligations.ZeroStaysZero := by
  intro s t hinv hx h0 hseed h
  rw [step_of_no_reset h0] at h
  by_contra hne
  obtain ⟨v, hi, -⟩ | ⟨-, hp, -, hval⟩ := xWriters _ s.nextTurn t h (by rwa [State.nextTurn_x, hx])
  · obtain ⟨hv, hr, hop⟩ := presented_of_decode_fetch_seed hi
    exact hseed ⟨hr, hv, hop⟩
  · have hr : s.r.toNat = refStep Config.A 0#64 := hx ▸ (State.chain_of_commit hp).mp hinv.onChain
    rw [State.nextTurn_r, hr] at hval
    exact hne (BitVec.eq_of_toNat_eq hval)

/-! ### FastStep: the loop in closed form -/

theorem corrLoop_eq_divMod_of_lt {r : BitVec 71} (hlt : r.toNat < Config.M) (left n : Nat) :
    ∃ r' : BitVec 71, corrLoop left r n = some (r', n + r.toNat / Config.M) ∧
      r'.toNat = r.toNat % Config.M :=
  ⟨r, by rw [corrLoop_stop hlt, Nat.div_eq_of_lt hlt, Nat.add_zero], (Nat.mod_eq_of_lt hlt).symm⟩

/-- With a large enough allowance the loop divides by `M`: the count grows by the quotient and the remainder is left. -/
theorem corrLoop_eq_divMod {left : Nat} {r : BitVec 71} (h : r.toNat / Config.M ≤ left) (n : Nat) :
    ∃ r' : BitVec 71, corrLoop left r n = some (r', n + r.toNat / Config.M) ∧
      r'.toNat = r.toNat % Config.M := by
  induction left generalizing r n with
  | zero =>
    exact corrLoop_eq_divMod_of_lt ((Nat.div_eq_zero_iff_lt (by decide)).mp (Nat.le_zero.mp h)) 0 n
  | succ left ih =>
    obtain hlt | hge := Nat.lt_or_ge r.toNat Config.M
    · exact corrLoop_eq_divMod_of_lt hlt (left + 1) n
    · have hdiv : r.toNat / Config.M = (subtractM r).toNat / Config.M + 1 := by
        rw [subtractM_toNat, Nat.div_eq_sub_div (by decide) hge]
      obtain ⟨r', hloop, hmod⟩ := ih (r := subtractM r) (by omega) (n + 1)
      refine ⟨r', ?_, ?_⟩
      · rw [corrLoop_subtract hge, hloop, hdiv, Nat.add_right_comm, Nat.add_assoc]
      · rw [hmod, subtractM_toNat, ← Nat.mod_eq_sub_mod hge]

/-- What is in reach of the pre-correction is less than `3 * M` (R106, R107). -/
theorem div_M_le_two {r : Nat} (h : r < 2 ^ 65 + 3422) : r / Config.M ≤ 2 := by
  rw [config_M]
  omega

theorem recombined_mod (a x : Word) : (recombined a x).toNat % Config.M = refStep a x := by
  rw [recombined_toNat, recombine_mod, refStep]

theorem preCorrect_recombined_lt (a x : Word) : (preCorrect (recombined a x)).toNat < 2 ^ 65 + 3422 :=
  preCorrect_lt (recombine_lt _ _)

/-- FastStep and its count: the loop starts with the pre-corrected `r0` and divides it by `M`. -/
theorem fastStepCount_eq (a x : Word) :
    ∃ v : Word, fastStepCount a x = some (v, (preCorrect (recombined a x)).toNat / Config.M) ∧
      v.toNat = refStep a x := by
  have hle := div_M_le_two (preCorrect_recombined_lt a x)
  obtain ⟨r, hloop, hr⟩ := corrLoop_eq_divMod (hle.trans (by decide : 2 ≤ Config.CEIL)) 0
  rw [preCorrect_mod, recombined_mod] at hr
  refine ⟨lowerPart r, by simp [fastStepCount, hloop], ?_⟩
  have hlt := refStep_lt a x
  rw [config_M] at hlt
  rw [lowerPart_toNat, hr]
  omega

theorem fastStep_of_toNat_eq {a x v : Word} (h : v.toNat = refStep a x) : fastStep a x = some v := by
  obtain ⟨w, hfast, hw⟩ := fastStepCount_eq a x
  rw [fastStep, hfast, BitVec.eq_of_toNat_eq (h.trans hw.symm)]
  rfl

/-! ### A STEP in progress

The turns that a STEP still needs can be read off the state: one for each phase up to COMMIT, and one for each
subtraction, of which there are as many as `M` goes into the value the loop starts with. Every turn takes exactly one
off this number, and the turn that takes the last one off is COMMIT. -/

/-- A STEP is in progress, and the working registers are on its way (R84 to R88). -/
structure State.InStep (s : State) : Prop where
  busy : s.busy = true
  noFault : s.fault = false
  seeded : s.seeded = true
  onChain : s.chain

/-- What `R` will hold when the loop starts; in the loop and after it, what `R` holds. -/
def State.loopValue (s : State) : BitVec 71 :=
  match s.phase with
  | .mul => preCorrect (recombined Config.A s.x)
  | .split => preCorrect (recombine (productHi s.p) (productLo s.p))
  | .recomb => preCorrect (recombine s.hi s.lo)
  | .precorr => preCorrect s.r
  | .idle | .corr | .commit | .faulted => s.r

/-- The sequencer steps from a phase to the end of COMMIT, without those that subtract. -/
def phaseSteps : Phase → Nat
  | .mul => 6
  | .split => 5
  | .recomb => 4
  | .precorr => 3
  | .corr => 2
  | .commit => 1
  | .idle | .faulted => 0

/-- The sequencer steps to the end of the STEP in progress (R148). -/
def State.turnsLeft (s : State) : Nat :=
  phaseSteps s.phase + s.loopValue.toNat / Config.M

/-- One sequencer step short of COMMIT: the STEP stays in progress, `X` and `CAUSE` stay, and it takes one turn less to
the end. -/
structure State.Advance (s t : State) : Prop where
  inStep : t.InStep
  x : t.x = s.x
  cause : t.cause = s.cause
  inputs : t.inputs = s.inputs
  turns : t.turnsLeft + 1 = s.turnsLeft

section InStep

variable {s t : State}

theorem State.Inv.inStep (h : s.Inv) (hb : s.busy = true) : s.InStep :=
  ⟨hb, h.fault_of_busy hb, h.busySeeded hb, h.onChain⟩

theorem State.InStep.nextTurn (h : s.InStep) : s.nextTurn.InStep :=
  ⟨h.busy, h.noFault, h.seeded, h.onChain⟩

theorem State.InStep.r_lt_of_commit (h : s.InStep) (hp : s.phase = .commit) :
    s.r.toNat < Config.M := by
  rw [(State.chain_of_commit hp).mp h.onChain]
  exact refStep_lt Config.A s.x

theorem State.InStep.loopValue_lt (h : s.InStep) : s.loopValue.toNat < 2 ^ 65 + 3422 := by
  have hchain := h.onChain
  cases hp : s.phase with
  | idle | faulted => simp [s.busy_iff.mp h.busy] at hp
  | mul => simpa [State.loopValue, hp] using preCorrect_recombined_lt Config.A s.x
  | split | recomb => simpa [State.loopValue, hp] using preCorrect_lt (recombine_lt _ _)
  | precorr =>
    obtain ⟨-, hlt⟩ := (State.chain_of_precorr hp).mp hchain
    simpa [State.loopValue, hp] using preCorrect_lt hlt
  | corr =>
    obtain ⟨-, hlt⟩ := (State.chain_of_corr hp).mp hchain
    simpa [State.loopValue, hp] using lt_of_le_of_lt (Nat.le_add_right _ _) hlt
  | commit =>
    have hlt := h.r_lt_of_commit hp
    rw [config_M] at hlt
    simp only [State.loopValue, hp]
    omega

/-- R148: at most `6 + 2` sequencer steps. -/
theorem State.InStep.turnsLeft_le (h : s.InStep) : s.turnsLeft ≤ 8 := by
  have hsteps : phaseSteps s.phase ≤ 6 := by cases s.phase <;> decide
  have := div_M_le_two h.loopValue_lt
  rw [State.turnsLeft]
  omega

theorem State.InStep.turnsLeft_pos (h : s.InStep) : 1 ≤ s.turnsLeft := by
  have hsteps : 1 ≤ phaseSteps s.phase := by
    have hb := h.busy
    rw [State.busy] at hb
    revert hb
    cases s.phase <;> decide
  exact Nat.le_add_right_of_le hsteps

theorem State.InStep.turnsLeft_of_commit (h : s.InStep) (hp : s.phase = .commit) : s.turnsLeft = 1 := by
  simp [State.turnsLeft, State.loopValue, phaseSteps, hp, Nat.div_eq_of_lt (h.r_lt_of_commit hp)]

/-! ### One sequencer step -/

/-- A sequencer step that writes working registers and `PHASE` only, on to the next phase of the chain. -/
theorem State.InStep.advanceTo (h : s.InStep) (hchain : t.chain) (hturns : t.turnsLeft + 1 = s.turnsLeft)
    (hbusy : t.busy = true := by rfl) (hfault : t.fault = s.fault := by rfl)
    (hseeded : t.seeded = s.seeded := by rfl) (hx : t.x = s.x := by rfl) (hcause : t.cause = s.cause := by rfl)
    (hinputs : t.inputs = s.inputs := by rfl) : s.Advance t :=
  ⟨⟨hbusy, hfault.trans h.noFault, hseeded.trans h.seeded, hchain⟩, hx, hcause, hinputs, hturns⟩

/-- A step to the next phase that leaves the value for the loop as it is takes one turn off. -/
theorem turnsLeft_of_next_phase (hphase : phaseSteps t.phase + 1 = phaseSteps s.phase)
    (hvalue : t.loopValue = s.loopValue) : t.turnsLeft + 1 = s.turnsLeft := by
  rw [State.turnsLeft, State.turnsLeft, hvalue, ← hphase, Nat.add_right_comm]

/-- CORR subtracts or ends the loop; the bound is out of reach (R107). -/
theorem State.InStep.advance_corr (h : s.InStep) (hp : s.phase = .corr) (he : exec .corr s = .next t) :
    s.Advance t := by
  have hchain := h.onChain
  obtain ⟨-, ⟨hr, hn, -⟩ | ⟨hr, hn, rfl⟩ | ⟨hr, rfl⟩⟩ :=
    (exec_corr_cases he).resolve_right fun hoff => hoff.1 ⟨hp, h.noFault⟩
  · have := State.cnt_lt_of_chain hchain hp hr
    omega
  · refine h.advanceTo (State.chain_subtract hchain hp hr hn) ?_
    simp [State.turnsLeft, State.loopValue, hp, subtractM_toNat, Nat.div_eq_sub_div (by decide) hr, Nat.add_assoc]
  · exact h.advanceTo (State.chain_loopEnd hchain hp hr)
      (turnsLeft_of_next_phase (by rw [hp]; rfl) (by simp [State.loopValue, hp]))

/-- Short of COMMIT a sequencer step advances the STEP: phase by phase, the chain goes on (R80). -/
theorem State.InStep.advance (h : s.InStep) (hcommit : s.phase ≠ .commit)
    (he : exec (instrOfPhase s.phase) s = .next t) : s.Advance t := by
  have hchain := h.onChain
  have hf := h.noFault
  cases hp : s.phase with
  | idle | faulted => simp [s.busy_iff.mp h.busy] at hp
  | mul =>
    obtain ⟨-, rfl⟩ := (exec_mul_cases (hp ▸ he)).resolve_right fun hoff => hoff.1 ⟨hp, hf⟩
    exact h.advanceTo s.chain_mul
      (turnsLeft_of_next_phase (by rw [hp]; rfl) (by simp [State.loopValue, hp, recombined]))
  | split =>
    obtain ⟨-, rfl⟩ := (exec_split_cases (hp ▸ he)).resolve_right fun hoff => hoff.1 ⟨hp, hf⟩
    exact h.advanceTo (State.chain_split hchain hp)
      (turnsLeft_of_next_phase (by rw [hp]; rfl) (by simp [State.loopValue, hp]))
  | recomb =>
    obtain ⟨-, rfl⟩ := (exec_recomb_cases (hp ▸ he)).resolve_right fun hoff => hoff.1 ⟨hp, hf⟩
    exact h.advanceTo (State.chain_recomb hchain hp)
      (turnsLeft_of_next_phase (by rw [hp]; rfl) (by simp [State.loopValue, hp]))
  | precorr =>
    obtain ⟨-, rfl⟩ := (exec_precorr_cases (hp ▸ he)).resolve_right fun hoff => hoff.1 ⟨hp, hf⟩
    exact h.advanceTo (State.chain_precorr hchain hp)
      (turnsLeft_of_next_phase (by rw [hp]; rfl) (by simp [State.loopValue, hp]))
  | corr =>
    rw [hp] at he
    exact h.advance_corr hp he
  | commit => exact absurd hp hcommit

/-! ### To the end of the STEP -/

/-- The STEP in progress in `s` ends after exactly `n` turns, in `t`, and the block is busy with its old `X` until
then. -/
structure State.Finishes (s : State) (n : Nat) (t : State) : Prop where
  run_eq : run n s = .next t
  idle : t.phase = .idle
  noFault : t.fault = false
  seeded : t.seeded = true
  cause : t.cause = s.cause
  x : t.x.toNat = refStep Config.A s.x
  inputs : t.inputs = s.inputs.drop n
  busy : ∀ j < n, ∃ u, run j s = .next u ∧ u.busy = true ∧ u.x = s.x

theorem State.Finishes.ready {n : Nat} (h : s.Finishes n t) : t.ready = true :=
  t.ready_iff.mpr ⟨h.idle, h.noFault⟩

theorem State.InStep.step_eq (h : s.InStep) (h0 : s.ports.reset = false) :
    step s = exec (instrOfPhase s.phase) s.nextTurn :=
  step_of_not_ready (State.not_ready_of_busy h.busy) h0

/-- COMMIT is the last turn. -/
theorem State.InStep.finishes_of_commit (h : s.InStep) (hp : s.phase = .commit) (h0 : s.ports.reset = false) :
    s.Finishes 1 { s.nextTurn with x := lowerPart s.r, phase := .idle } where
  run_eq := by
    rw [run_succ (n := 0)]
    · rfl
    · rw [h.step_eq h0, hp]
      exact exec_commit_of_phase (s := s.nextTurn) hp h.noFault
  idle := rfl
  noFault := h.noFault
  seeded := h.seeded
  cause := rfl
  x := State.lowerPart_of_chain h.onChain hp
  inputs := List.drop_one.symm
  busy j hj := ⟨s, by rw [Nat.lt_one_iff.mp hj, run_zero], h.busy, rfl⟩

/-- One turn before the turns to the end. -/
theorem State.Finishes.cons {u : State} {n : Nat} (h : u.Finishes n t) (hb : s.busy = true)
    (hs : step s = .next u) (ha : s.nextTurn.Advance u) : s.Finishes (n + 1) t where
  run_eq := (run_succ hs n).trans h.run_eq
  idle := h.idle
  noFault := h.noFault
  seeded := h.seeded
  cause := h.cause.trans ha.cause
  x := by rw [h.x, ha.x, State.nextTurn_x]
  inputs := by rw [h.inputs, ha.inputs, State.nextTurn_inputs, List.drop_tail]
  busy j hj := by
    cases j with
    | zero => exact ⟨s, rfl, hb, rfl⟩
    | succ j =>
      obtain ⟨v, hrun, hbusy, hx⟩ := h.busy j (Nat.lt_of_succ_lt_succ hj)
      exact ⟨v, (run_succ hs j).trans hrun, hbusy, hx.trans ha.x⟩

/-- R80, R148: a STEP in progress ends, by induction on the turns that are left. -/
theorem State.InStep.finishes (h : s.InStep) (h0 : s.noResetIn s.turnsLeft) :
    ∃ t, s.Finishes s.turnsLeft t := by
  generalize hn : s.turnsLeft = n at h0 ⊢
  induction n generalizing s with
  | zero =>
    have := h.turnsLeft_pos
    omega
  | succ n ih =>
    by_cases hp : s.phase = .commit
    · obtain rfl : n = 0 := by
        have := h.turnsLeft_of_commit hp
        omega
      exact ⟨_, h.finishes_of_commit hp h0.ports⟩
    · obtain ⟨u, hu⟩ := exec_answers (instrOfPhase s.phase) s.nextTurn
      have ha : s.nextTurn.Advance u := h.nextTurn.advance hp hu
      have hturns : u.turnsLeft = n := Nat.succ.inj (ha.turns.trans hn)
      obtain ⟨t, ht⟩ := ih ha.inStep hturns (h0.tail ha.inputs)
      exact ⟨t, ht.cons h.busy ((h.step_eq h0.ports).trans hu) ha⟩

theorem State.noResetIn.mono {m n : Nat} (h : s.noResetIn n) (hmn : m ≤ n) : s.noResetIn m :=
  fun i hi => h i ((List.take_subset_take_left s.inputs hmn) hi)

/-- A held command comes with no reset event. -/
theorem noResetIn_of_held {n : Nat} {i : PortsIn} {rest : List PortsIn}
    (h : s.inputs = List.replicate n i ++ rest) (hi : i.reset = false) : s.noResetIn n := by
  intro j hj
  rw [h, List.take_left' List.length_replicate] at hj
  rw [List.eq_of_mem_replicate hj, hi]

end InStep

/-- Settles O50: nine turns are one more than the STEP in progress needs, so the word still stands on `cmd` when the
block is ready. -/
theorem heldCommandIsTaken : Obligations.HeldCommandIsTaken := by
  intro s w rest hinv hb hinputs
  have hstep : s.InStep := hinv.inStep hb
  have hle := hstep.turnsLeft_le
  have h0 : s.noResetIn 9 := noResetIn_of_held hinputs rfl
  obtain ⟨t, ht⟩ := hstep.finishes (h0.mono (by omega))
  have hheld : t.inputs = presentTurn w :: (List.replicate (8 - s.turnsLeft) (presentTurn w) ++ rest) := by
    rw [ht.inputs, hinputs, List.drop_append_of_le_length (by rw [List.length_replicate]; omega),
      List.drop_replicate, show 9 - s.turnsLeft = (8 - s.turnsLeft) + 1 by omega, List.replicate_succ,
      List.cons_append]
  exact ⟨s.turnsLeft, t, hstep.turnsLeft_pos, hle, ht.run_eq, ht.ready, ht.x,
    step_of_presented ht.ready (State.ports_of_inputs_cons hheld)⟩

/-! ### Whole transactions -/

section Accept

variable {s : State}

/-- The accept event of a STEP (R73). -/
theorem step_of_step_presented {d : Word} (hr : s.ready = true) (hs : s.seeded = true)
    (hw : s.ports = presentTurn (cmdWord 1#1 d)) : step s = .next (s.nextTurn.goto .mul) := by
  obtain ⟨hp, hf⟩ := s.ready_iff.mp hr
  rw [step_of_presented hr hw, decode_cmd_of_op_one (cmdOp_cmdWord 1#1 d)]
  exact stepStartsAtMul s.nextTurn _ hp hf hs

/-- The accept event of a SEED in range (R72). -/
theorem step_of_seed_presented {v : Word} (hr : s.ready = true) (hv : v.toNat < Config.M)
    (hw : s.ports = presentTurn (cmdWord 0#1 v)) :
    step s = .next { s.nextTurn with x := v, seeded := true, phase := .idle } := by
  obtain ⟨hp, hf⟩ := s.ready_iff.mp hr
  rw [step_of_presented hr hw, decode_cmd_of_op_zero (cmdOp_cmdWord 0#1 v), cmdData_cmdWord]
  exact seedLoads s.nextTurn v hp hf hv

theorem inStep_goto_mul (hf : s.fault = false) (hs : s.seeded = true) : (s.goto .mul).InStep :=
  ⟨rfl, hf, hs, trivial⟩

theorem turnsLeft_goto_mul (s : State) :
    (s.goto .mul).turnsLeft = 6 + (preCorrect (recombined Config.A s.x)).toNat / Config.M := rfl

end Accept

/-- Settles O48: after the accept event the STEP takes six turns and one for each subtraction, which are as many as
FastStep counts; what it leaves in `X` is the number FastStep answers. -/
theorem stepTransaction : Obligations.StepTransaction := by
  intro s d hp hf hs _ hw h0
  obtain ⟨v, hfast, hv⟩ := fastStepCount_eq Config.A s.x
  have haccept := step_of_step_presented (s.ready_iff.mpr ⟨hp, hf⟩) hs hw
  have hstep : (s.nextTurn.goto .mul).InStep := inStep_goto_mul hf hs
  have hno : (s.nextTurn.goto .mul).noResetIn 8 := h0.tail rfl
  obtain ⟨t, ht⟩ := hstep.finishes (hno.mono hstep.turnsLeft_le)
  rw [turnsLeft_goto_mul, State.nextTurn_x] at ht
  refine ⟨v, _, t, hfast, div_M_le_two (preCorrect_recombined_lt Config.A s.x), ?_,
    BitVec.eq_of_toNat_eq (ht.x.trans hv.symm), ht.x, ht.x ▸ refStep_lt Config.A s.x, ht.seeded, ht.noFault,
    ht.idle, ht.cause, ?_, ?_⟩
  · rw [Nat.add_comm 1, run_succ haccept, ht.run_eq]
  · rw [ht.inputs, State.goto_inputs, State.nextTurn_inputs, List.drop_tail, Nat.add_comm 1]
  · intro j hj hlt
    obtain ⟨j, rfl⟩ := Nat.exists_eq_add_of_le' hj
    rw [run_succ haccept]
    exact ht.busy j (by omega)

section HostTurns

variable {s : State}

/-- Quiet turns leave a ready block as it is (R71). -/
theorem run_of_quiet {n : Nat} {rest : List PortsIn} (hr : s.ready = true)
    (h : s.inputs = List.replicate n PortsIn.quiet ++ rest) : run n s = .next { s with inputs := rest } := by
  induction n generalizing s with
  | zero =>
    rw [run_zero, ← show s.inputs = rest from h]
  | succ n ih =>
    rw [List.replicate_succ, List.cons_append] at h
    have hquiet : s.ports = PortsIn.quiet := State.ports_of_inputs_cons h
    rw [run_succ (step_of_nop hr (by rw [hquiet]; rfl) (by rw [hquiet]; rfl)),
      ih (s := s.nextTurn) hr (by rw [State.nextTurn_inputs, h, List.tail_cons])]
    rfl

/-- The nine turns of a STEP in a host program: the transaction, and quiet turns for what is left of the wait (R64, log
entry 10). -/
theorem run_stepTurns {rest : List PortsIn} (hp : s.phase = .idle) (hf : s.fault = false) (hs : s.seeded = true)
    (hx : s.x.toNat < Config.M) (h : s.inputs = stepTurns ++ rest) :
    ∃ t, run 9 s = .next t ∧ t.x.toNat = refStep Config.A s.x ∧ t.phase = .idle ∧ t.fault = false ∧
      t.seeded = true ∧ t.inputs = rest := by
  have hw : s.ports = presentTurn (cmdWord 1#1 0#64) := State.ports_of_inputs_cons h
  have h0 : s.noResetIn 9 := by
    rw [State.noResetIn, h, List.take_left' (by decide)]
    decide
  obtain ⟨v, n, t, -, hn, hrun, -, htx, -, hts, htf, htp, -, hti, -⟩ := stepTransaction s 0#64 hp hf hs hx hw h0
  have hquiet : t.inputs = List.replicate (2 - n) PortsIn.quiet ++ rest := by
    rw [hti, h]
    interval_cases n <;> rfl
  refine ⟨{ t with inputs := rest }, ?_, htx, htp, htf, hts, rfl⟩
  rw [show 9 = 1 + (6 + n) + (2 - n) by omega, run_add hrun,
    run_of_quiet (t.ready_iff.mpr ⟨htp, htf⟩) hquiet]

end HostTurns

/-- Settles O52: the turn of the SEED makes the block ready and seeded, and the nine turns of the STEP follow. -/
theorem fastStepOnTheBlock : Obligations.FastStepOnTheBlock := by
  intro v s hp hf hv
  have hval : (BitVec.ofNat 64 v).toNat = v := by
    rw [config_M] at hv
    rw [BitVec.toNat_ofNat]
    omega
  have hinputs : (s.withProgram [.fastStep v]).inputs =
      presentTurn (cmdWord 0#1 (BitVec.ofNat 64 v)) :: (stepTurns ++ []) := rfl
  have hseed := step_of_seed_presented (s := s.withProgram [.fastStep v]) (s.ready_iff.mpr ⟨hp, hf⟩)
    (hval.symm ▸ hv) (State.ports_of_inputs_cons hinputs)
  obtain ⟨t, hrun, htx, htp, htf, hts, -⟩ := run_stepTurns (rest := [])
    (s := { (s.withProgram [.fastStep v]).nextTurn with x := BitVec.ofNat 64 v, seeded := true, phase := .idle })
    rfl hf rfl (hval.symm ▸ hv) (congrArg List.tail hinputs)
  exact ⟨t, t.x, (run_succ hseed 9).trans hrun, fastStep_of_toNat_eq htx, rfl, hts,
    t.ready_iff.mpr ⟨htp, htf⟩, htf⟩

end Sys2Proof.Machine

/-! # The micro-operations: what each writes, when it happens, the order of the phases, and STEPs in a row -/

namespace Sys2Proof.Machine

section MicroOps

variable {s : State}

/-! ### A micro-operation in its phase -/

theorem State.perform_of_phase {ph : Phase} (hp : s.phase = ph) (hf : s.fault = false) (e : State → State) :
    s.perform ph e = e s :=
  State.perform_of_at ((s.at_iff ph).mpr ⟨hp, hf⟩) e

theorem exec_mul_of_phase (hp : s.phase = .mul) (hf : s.fault = false) :
    exec .mul s = .next { s with p := product Config.A s.x, phase := .split } :=
  congrArg Host.Outcome.next (State.perform_of_phase hp hf _)

theorem exec_split_of_phase (hp : s.phase = .split) (hf : s.fault = false) :
    exec .split s = .next { s with hi := productHi s.p, lo := productLo s.p, phase := .recomb } :=
  congrArg Host.Outcome.next (State.perform_of_phase hp hf _)

theorem exec_recomb_of_phase (hp : s.phase = .recomb) (hf : s.fault = false) :
    exec .recomb s = .next { s with r := recombine s.hi s.lo, phase := .precorr } :=
  congrArg Host.Outcome.next (State.perform_of_phase hp hf _)

theorem exec_precorr_of_phase (hp : s.phase = .precorr) (hf : s.fault = false) :
    exec .precorr s = .next { s with k := preKReg s.r, r := preCorrect s.r, cnt := 0#2, phase := .corr } :=
  congrArg Host.Outcome.next (State.perform_of_phase hp hf _)

/-- The instruction of a busy phase does nothing outside its enabling condition (R80). -/
theorem exists_exec_eq_perform {ph : Phase} (hb : phaseBusy ph = true) (s : State) :
    ∃ e, exec (instrOfPhase ph) s = .next (s.perform ph e) := by
  cases ph with
  | idle | faulted => cases hb
  | mul | split | recomb | precorr | corr | commit => exact ⟨_, rfl⟩

/-! ### The pre-correction and the count of the loop -/

/-- The pre-correction takes off exactly `(q - 1) * M` (R86). -/
theorem preCorrect_add_of_test {r : BitVec 71} (h : 2 ≤ r.toNat / 2 ^ 64 ∧ r.toNat / 2 ^ 64 ≤ 100) :
    (preCorrect r).toNat + (r.toNat / 2 ^ 64 - 1) * Config.M = r.toNat := by
  rw [preCorrect_toNat_of_test h, config_M]
  omega

theorem cnt_add_one_toNat {n : BitVec 2} (h : n.toNat < 3) : (n + 1#2).toNat = n.toNat + 1 := by
  rw [BitVec.toNat_add, show (1#2).toNat = 1 from rfl]
  omega

end MicroOps

/-! ### The statements of the micro-operations -/

/-- Settles O19: the product register is wide enough for `A * X`. -/
theorem mulExact : Obligations.MulExact := fun s hp hf =>
  ⟨product Config.A s.x, product_toNat Config.A s.x, exec_mul_of_phase hp hf⟩

/-- Settles O20. -/
theorem splitHalves : Obligations.SplitHalves := by
  intro s hp hf
  refine ⟨productHi s.p, productLo s.p, productHi_toNat s.p, productLo_toNat s.p, ?_, exec_split_of_phase hp hf⟩
  rw [productHi_toNat, productLo_toNat, Nat.div_add_mod']

/-- Settles O21: 71 bits hold `LO + 59 * HI`. -/
theorem recombExact : Obligations.RecombExact := fun s hp hf =>
  ⟨recombine s.hi s.lo, recombine_toNat s.hi s.lo, recombine_lt s.hi s.lo, exec_recomb_of_phase hp hf⟩

/-- Settles O22: the test passes exactly when `2 <= q <= 100`, and `K` is wide enough for the signed `q - 1`. -/
theorem precorrEffect : Obligations.PrecorrEffect := fun s hp hf =>
  ⟨preKReg s.r, preCorrect s.r, (preKReg_toInt s.r).trans (preK_eq s.r),
    fun h => ⟨preCorrect_add_of_test h, preCorrect_toNat_of_test h⟩, preCorrect_of_not_test,
    exec_precorr_of_phase hp hf⟩

/-- Settles O23: in its phase CORR has three cases, and their conditions on `R` and `CNT` exclude each other. -/
theorem corrEffect : Obligations.CorrEffect := by
  intro s hp hf
  obtain ⟨t, ht⟩ := exec_answers .corr s
  rw [ht]
  obtain ⟨-, ⟨hr, hn, rfl⟩ | ⟨hr, hn, rfl⟩ | ⟨hr, rfl⟩⟩ :=
    (exec_corr_cases ht).resolve_right fun hoff => hoff.1 ⟨hp, hf⟩
  · exact ⟨fun _ hlt => absurd hn hlt.ne, fun _ _ => rfl, fun hlt => absurd hr hlt.not_ge⟩
  · have hsub : (subtractM s.r).toNat + Config.M = s.r.toNat := by
      rw [subtractM_toNat, Nat.sub_add_cancel hr]
    exact ⟨fun _ _ => ⟨_, _, hsub, cnt_add_one_toNat hn, rfl⟩, fun _ heq => absurd heq hn.ne,
      fun hlt => absurd hr hlt.not_ge⟩
  · exact ⟨fun hge => absurd hge hr.not_ge, fun hge => absurd hge hr.not_ge, fun _ => rfl⟩

/-- Settles O24: below `M` the low 64 bits are all of `R`. -/
theorem commitEffect : Obligations.CommitEffect := by
  intro s hp hf
  refine ⟨lowerPart s.r, lowerPart_toNat s.r, fun hlt => ?_, exec_commit_of_phase hp hf⟩
  rw [config_M] at hlt
  rw [lowerPart_toNat]
  omega

/-- Settles O25. -/
theorem idleAndFaultedDoNothing : Obligations.IdleAndFaultedDoNothing :=
  fun _ => ⟨rfl, rfl⟩

/-- Settles O26: every micro-operation is performed behind the same test. -/
theorem microOpOnlyInItsPhase : Obligations.MicroOpOnlyInItsPhase := by
  intro s ph hb hoff
  obtain ⟨e, he⟩ := exists_exec_eq_perform hb s
  have hat : s.at ph = false := Bool.eq_false_of_not_eq_true (mt (s.at_iff ph).mp hoff)
  rw [he, State.perform_of_not_at hat]

/-- Settles O27: a busy block runs the instruction of its phase, and that instruction's effect names the phase that
follows. -/
theorem sequencerOrder : Obligations.SequencerOrder := by
  intro s hb hf h0
  rw [step_of_not_ready (State.not_ready_of_busy hb) h0]
  cases hp : s.phase with
  | idle | faulted => simp [s.busy_iff, hp] at hb
  | mul => exact ⟨_, exec_mul_of_phase (s := s.nextTurn) hp hf, by simp⟩
  | split => exact ⟨_, exec_split_of_phase (s := s.nextTurn) hp hf, by simp⟩
  | recomb => exact ⟨_, exec_recomb_of_phase (s := s.nextTurn) hp hf, by simp⟩
  | precorr => exact ⟨_, exec_precorr_of_phase (s := s.nextTurn) hp hf, by simp⟩
  | commit => exact ⟨_, exec_commit_of_phase (s := s.nextTurn) hp hf, by simp⟩
  | corr =>
    obtain ⟨hsub, hbound, hend⟩ := corrEffect s.nextTurn hp hf
    obtain hlt | hge := Nat.lt_or_ge s.r.toNat Config.M
    · exact ⟨_, hend hlt, by simp [hlt.not_ge]⟩
    · obtain hn | hn := Nat.lt_or_eq_of_le (Nat.le_of_lt_succ s.cnt.isLt)
      · obtain ⟨r, n, -, -, he⟩ := hsub hge hn
        exact ⟨_, he, by simp [hge, hn.ne]⟩
      · exact ⟨_, hbound hge hn, by simp [hge, hn]⟩

/-! ### The wide multiply from four partial products (R83) -/

theorem slice_31_0 (v : Nat) : slice v 31 0 = v % 2 ^ 32 :=
  slice_mod v 31

theorem slice_63_32 {v : Nat} (h : v < 2 ^ 64) : slice v 63 32 = v / 2 ^ 32 :=
  Nat.mod_eq_of_lt (Nat.div_lt_of_lt_mul h)

theorem slice_lt (v hi lo : Nat) : slice v hi lo < 2 ^ (hi - lo + 1) :=
  Nat.mod_lt _ (Nat.two_pow_pos _)

theorem slice_mul_slice_le (v w : Nat) {i j : Nat} :
    slice v (j + 31) j * slice w (i + 31) i ≤ (2 ^ 32 - 1) * (2 ^ 32 - 1) := by
  have hv := slice_lt v (j + 31) j
  have hw := slice_lt w (i + 31) i
  rw [Nat.add_sub_cancel_left] at hv hw
  exact Nat.mul_le_mul (Nat.le_sub_one_of_lt hv) (Nat.le_sub_one_of_lt hw)

theorem partialProducts_le (a b : Word) :
    (partialProducts a b).ll ≤ (2 ^ 32 - 1) * (2 ^ 32 - 1) ∧
      (partialProducts a b).lh ≤ (2 ^ 32 - 1) * (2 ^ 32 - 1) ∧
      (partialProducts a b).hl ≤ (2 ^ 32 - 1) * (2 ^ 32 - 1) ∧
      (partialProducts a b).hh ≤ (2 ^ 32 - 1) * (2 ^ 32 - 1) :=
  ⟨slice_mul_slice_le _ _, slice_mul_slice_le _ _, slice_mul_slice_le _ _, slice_mul_slice_le _ _⟩

/-- The two halves of a word. -/
theorem slice_halves (a : Word) : slice a.toNat 63 32 * 2 ^ 32 + slice a.toNat 31 0 = a.toNat := by
  rw [slice_63_32 a.isLt, slice_31_0, Nat.div_add_mod']

/-- The partial products, each at its weight, add up to the product. -/
theorem partialProducts_sum (a b : Word) :
    (partialProducts a b).hh * 2 ^ 64 + ((partialProducts a b).lh + (partialProducts a b).hl) * 2 ^ 32 +
      (partialProducts a b).ll = a.toNat * b.toNat := by
  rw [← slice_halves a, ← slice_halves b]
  simp only [partialProducts]
  ring

theorem partialProducts_mid (a b : Word) :
    (partialProducts a b).mid = slice (partialProducts a b).ll 63 32 + slice (partialProducts a b).lh 31 0 +
      slice (partialProducts a b).hl 31 0 := rfl

/-- What `mul64` narrows to its high word. -/
def PartialProducts.high (t : PartialProducts) : Nat :=
  t.hh + slice t.lh 63 32 + slice t.hl 63 32 + slice t.mid 63 32

/-- What `mul64` narrows to its low word. -/
def PartialProducts.low (t : PartialProducts) : Nat :=
  slice t.mid 31 0 * 2 ^ 32 + slice t.ll 31 0

theorem mul64_eq (a b : Word) :
    mul64 a b = (BitVec.ofNat 64 (partialProducts a b).high, BitVec.ofNat 64 (partialProducts a b).low) := rfl

theorem PartialProducts.low_lt (t : PartialProducts) : t.low < 2 ^ 64 := by
  rw [low, slice_31_0, slice_31_0]
  omega

theorem partialProducts_mid_lt (a b : Word) : (partialProducts a b).mid < 3 * 2 ^ 32 := by
  have h := slice_lt (partialProducts a b).ll 63 32
  rw [partialProducts_mid, slice_31_0, slice_31_0]
  omega

/-- The carries lose nothing: the high and the low sum are the product. -/
theorem partialProducts_high_low (a b : Word) :
    (partialProducts a b).high * 2 ^ 64 + (partialProducts a b).low = a.toNat * b.toNat := by
  obtain ⟨hll, hlh, hhl, -⟩ := partialProducts_le a b
  have hmid := partialProducts_mid_lt a b
  rw [← partialProducts_sum, PartialProducts.high, PartialProducts.low, slice_63_32 (by omega), slice_63_32 (by omega),
    slice_63_32 (by omega), partialProducts_mid, slice_63_32 (by omega)]
  simp only [slice_31_0]
  omega

/-- The product of two words fits 128 bits, so the high sum fits 64. -/
theorem partialProducts_high_eq (a b : Word) : (partialProducts a b).high = a.toNat * b.toNat / 2 ^ 64 := by
  rw [← partialProducts_high_low, Nat.mul_comm, Nat.mul_add_div (by decide),
    Nat.div_eq_of_lt (PartialProducts.low_lt _), Nat.add_zero]

theorem partialProducts_low_eq (a b : Word) : (partialProducts a b).low = a.toNat * b.toNat % 2 ^ 64 := by
  rw [← partialProducts_high_low, Nat.mul_add_mod_self_right, Nat.mod_eq_of_lt (PartialProducts.low_lt _)]

theorem mul64_eq_halves (a b : Word) : mul64 a b = (productHi (product a b), productLo (product a b)) := by
  rw [mul64_eq, partialProducts_high_eq, partialProducts_low_eq, ← product_toNat, ← productHi_toNat,
    ← productLo_toNat, BitVec.ofNat_toNat, BitVec.ofNat_toNat, BitVec.setWidth_eq, BitVec.setWidth_eq]

/-- Settles O44: the sums that Mul64 narrows are the quotient and the remainder of the product by `2^64`, so narrowing
them gives the halves of the product register. -/
theorem mul64Exact : Obligations.Mul64Exact := by
  intro a b
  obtain ⟨hll, hlh, hhl, hhh⟩ := partialProducts_le a b
  refine ⟨?_, mul64_eq_halves a b, partialProducts_mid_lt a b, by omega, by omega, by omega, by omega, ?_⟩
  · rw [mul64_eq_halves, productHi_toNat, productLo_toNat, product_toNat, Nat.div_add_mod']
  · have hhigh := partialProducts_high_eq a b
    rw [← product_toNat, ← productHi_toNat] at hhigh
    exact hhigh.trans_lt (productHi (product a b)).isLt

/-! ### A STEP in progress ends, and STEPs in a row -/

/-- Settles O49: the turns that a STEP in progress still needs are at least one and at most eight. -/
theorem busyEnds : Obligations.BusyEnds := by
  intro s hinv hb h0
  have hstep : s.InStep := hinv.inStep hb
  obtain ⟨t, ht⟩ := hstep.finishes (h0.mono hstep.turnsLeft_le)
  exact ⟨s.turnsLeft, t, hstep.turnsLeft_pos, hstep.turnsLeft_le, ht.run_eq, ht.ready, ht.x, ht.seeded, ht.cause⟩

/-- One step of the generator and then `n` more are `n + 1` (R95). -/
theorem pow_mul_refStep_mod (a x : Word) (n : Nat) :
    a.toNat ^ n * refStep a x % Config.M = a.toNat ^ (n + 1) * x.toNat % Config.M := by
  rw [refStep, Nat.mul_mod_mod, ← Nat.mul_assoc, ← Nat.pow_succ]

/-- Settles O51, by induction on the number of STEPs: nine turns make one step of the generator and leave the block
ready and seeded for the next. -/
theorem iteratedSteps : Obligations.IteratedSteps := by
  intro n
  induction n with
  | zero =>
    intro s hp hf hs hx hi
    exact ⟨s, rfl, by rw [Nat.pow_zero, Nat.one_mul, Nat.mod_eq_of_lt hx], hp, hf, hs, hi⟩
  | succ n ih =>
    intro s hp hf hs hx hi
    rw [List.replicate_succ, List.flatten_cons] at hi
    obtain ⟨t, hrun, htx, htp, htf, hts, hti⟩ := run_stepTurns hp hf hs hx hi
    obtain ⟨u, hu, hux, hrest⟩ := ih t htp htf hts (htx ▸ refStep_lt Config.A s.x) hti
    refine ⟨u, ?_, ?_, hrest⟩
    · rw [Nat.mul_succ, Nat.add_comm, run_add hrun, hu]
    · rw [hux, htx, pow_mul_refStep_mod]

end Sys2Proof.Machine

/-! # The arithmetic laws: bounds, the value the loop starts with, and FastStep in closed form -/

namespace Sys2Proof.Machine

/-! ### The two parts of `R` -/

theorem toNat_eq_parts (r : BitVec 71) : r.toNat = (upperPart r).toNat * 2 ^ 64 + (lowerPart r).toNat := by
  rw [upperPart_toNat, lowerPart_toNat]
  omega

/-- `rlo + 59 * q`: the parts of `R` added up with `2^64` replaced by 59, its residue modulo `M` (R107, R114). -/
def folded (r : BitVec 71) : Nat :=
  (lowerPart r).toNat + 59 * (upperPart r).toNat

theorem folded_mod (r : BitVec 71) : folded r % Config.M = r.toNat % Config.M := by
  rw [folded, upperPart_toNat, lowerPart_toNat, recombine_mod]

/-- The pre-correction leaves `rlo + 59 * q`, and one `M` more unless `q = 0` (R106). -/
theorem preCorrect_eq_folded {r : BitVec 71} (h : (upperPart r).toNat ≤ 100) :
    (preCorrect r).toNat = folded r + min (upperPart r).toNat 1 * Config.M := by
  rw [folded, upperPart_toNat, lowerPart_toNat, config_M]
  rw [upperPart_toNat] at h
  by_cases hq : 2 ≤ r.toNat / 2 ^ 64
  · rw [preCorrect_toNat_of_test ⟨hq, h⟩]
    omega
  · rw [preCorrect_of_not_test fun ht => hq ht.1]
    omega

/-! ### The bounds on `HI`, `r0`, `q` and `k` -/

theorem recombined_eq_productHi (a x : Word) :
    (recombined a x).toNat =
      (productLo (product a x)).toNat + 59 * (productHi (product a x)).toNat :=
  recombine_toNat _ _

theorem productHi_product_toNat (a x : Word) :
    (productHi (product a x)).toNat = a.toNat * x.toNat / 2 ^ 64 := by
  rw [productHi_toNat, product_toNat]

theorem productHi_le (a x : Word) : (productHi (product a x)).toNat ≤ 2 ^ 64 - 2 := by
  have hp : a.toNat * x.toNat ≤ (2 ^ 64 - 1) * (2 ^ 64 - 1) :=
    Nat.mul_le_mul (Nat.le_sub_one_of_lt a.isLt) (Nat.le_sub_one_of_lt x.isLt)
  rw [productHi_product_toNat]
  omega

/-- `A * (M - 1)` is `A * 2^64` less `60 * A`, and `60 * A` is more than `45 * 2^64` (R109). -/
theorem productHi_wired_le {x : Word} (hx : x.toNat < Config.M) :
    (productHi (product Config.A x)).toNat ≤ Config.A.toNat - 46 := by
  rw [config_M] at hx
  rw [productHi_product_toNat, config_A_toNat]
  omega

theorem recombined_le (a x : Word) : (recombined a x).toNat ≤ 60 * 2 ^ 64 - 119 := by
  have hhi := productHi_le a x
  have hlo := (productLo (product a x)).isLt
  rw [recombined_eq_productHi]
  omega

theorem upperPart_recombined_le (a x : Word) : (upperPart (recombined a x)).toNat ≤ 59 := by
  have hr := recombined_le a x
  rw [upperPart_toNat]
  omega

theorem upperPart_recombined_wired_le {x : Word} (hx : x.toNat < Config.M) :
    (upperPart (recombined Config.A x)).toNat ≤ 45 := by
  have hhi := productHi_wired_le hx
  have hlo := (productLo (product Config.A x)).isLt
  rw [config_A_toNat] at hhi
  rw [upperPart_toNat, recombined_eq_productHi]
  omega

/-- Settles O42: the product bounds `HI`, and `HI` bounds `r0` and its upper part. -/
theorem recombinedBounds : Obligations.RecombinedBounds := by
  refine ⟨fun a x => ?_, fun x hx => ?_⟩
  · have hr := recombined_le a x
    have hq := upperPart_recombined_le a x
    refine ⟨productHi_le a x, hr, Nat.testBit_lt_two_pow (by omega), hq, ?_, ?_⟩ <;> rw [preK] <;> omega
  · have hq := upperPart_recombined_wired_le hx
    exact ⟨productHi_wired_le hx, hq, by rw [preK]; omega⟩

/-- Settles O43: the cases of the pre-correction's value, with `q` at most 59. -/
theorem valueAfterPrecorr : Obligations.ValueAfterPrecorr := by
  intro a x
  have hq := upperPart_recombined_le a x
  have hlo := (lowerPart (recombined a x)).isLt
  have hpre := preCorrect_eq_folded (hq.trans (by decide))
  rw [folded, config_M] at hpre
  simp only [hpre, config_M]
  refine ⟨fun _ => ?_, fun _ => ?_, fun _ => ?_, fun _ => ?_, ?_⟩ <;> omega

/-! ### FastStep in closed form -/

/-- One subtraction of `M` is the most that `rlo + 59 * q` can need (R107, R114). -/
theorem folded_recombined_lt (a x : Word) : folded (recombined a x) < 2 * Config.M := by
  have hq := upperPart_recombined_le a x
  have hlo := (lowerPart (recombined a x)).isLt
  rw [folded, config_M]
  omega

/-- The loop divides `rlo + 59 * q` by `M`, and subtracts once more for the `M` that the pre-correction leaves when
`q` is not 0 (R107). -/
theorem fastStepCount_eq_folded (a x : Word) :
    ∃ v : Word, fastStepCount a x =
        some (v, folded (recombined a x) / Config.M + min (upperPart (recombined a x)).toNat 1) ∧
      v.toNat = folded (recombined a x) % Config.M := by
  obtain ⟨v, hcount, hv⟩ := fastStepCount_eq a x
  refine ⟨v, ?_, by rw [hv, folded_mod, recombined_mod]⟩
  rw [hcount, preCorrect_eq_folded ((upperPart_recombined_le a x).trans (by decide)),
    Nat.add_mul_div_right _ _ (by decide)]

theorem exists_fastStep_eq (a x : Word) : ∃ v : Word, fastStep a x = some v ∧ v.toNat = refStep a x := by
  obtain ⟨v, -, hv⟩ := fastStepCount_eq a x
  exact ⟨v, fastStep_of_toNat_eq hv, hv⟩

/-- Settles O39: the loop leaves the remainder of `r0` by `M`, which is that of `a * x` (R108). -/
theorem fastStepIsRefStep : Obligations.FastStepIsRefStep := by
  intro a x
  obtain ⟨v, hfast, hv⟩ := exists_fastStep_eq a x
  exact ⟨v, hfast, hv, hv ▸ refStep_lt a x⟩

/-- Settles O40: `rlo + 59 * q` is below `2 * M`, so its quotient by `M` is 0 or 1. -/
theorem correctionCount : Obligations.CorrectionCount := by
  intro a x
  obtain ⟨v, hcount, hv⟩ := fastStepCount_eq_folded a x
  have hq := upperPart_recombined_le a x
  have hlo := (lowerPart (recombined a x)).isLt
  have hfold := folded_recombined_lt a x
  refine ⟨v, _, hcount, ?_⟩
  rw [folded, config_M] at hv hfold
  simp only [folded, config_M]
  refine ⟨?_, fun _ _ => ?_, fun _ _ => ?_, fun _ _ => ?_, fun _ _ => ?_⟩ <;> omega

/-- Settles O45: `FastStep(a, x)` is `rlo + 59 * q` modulo `M`, and `rlo + 59 * q` is below `2 * M`. -/
theorem closedForm : Obligations.ClosedForm := by
  intro a x
  obtain ⟨v, hfast, hv⟩ := exists_fastStep_eq a x
  refine ⟨v, hfast, ?_⟩
  have hlt := folded_recombined_lt a x
  rw [hv, ← recombined_mod, ← folded_mod]
  change folded _ % _ = folded _ - (if _ ≤ folded _ then 1 else 0) * _
  split
  · next hge => rw [Nat.one_mul, Nat.mod_eq_sub_mod hge, Nat.mod_eq_of_lt (by omega)]
  · next hge => rw [Nat.zero_mul, Nat.sub_zero, Nat.mod_eq_of_lt (by omega)]

/-- Refutes O41: at `x = 118055562673796743`, `HI` is not 0 and `59 * HI` carries the low part to `M` or above while
`q = 0`, so the loop subtracts once. -/
theorem not_wiredQZeroNeverSubtracts : ¬ Obligations.WiredQZeroNeverSubtracts := by
  intro h
  obtain ⟨v, hv⟩ := h 118055562673796743#64 (by decide) (by decide)
  have hcount : fastStepCount Config.A 118055562673796743#64 = some (51#64, 1) := by decide
  rw [hcount] at hv
  cases hv

/-! ### What the circuit may compute instead -/

theorem upperPart_ne_zero_iff (r : BitVec 71) : upperPart r ≠ 0#7 ↔ 1 ≤ (upperPart r).toNat := by
  rw [ne_eq, ← BitVec.toNat_inj, BitVec.toNat_zero]
  omega

/-- Settles O46: `M` is `2^64 - 59`, so each comparison and subtraction splits along the parts of `R` at bit 64. -/
theorem noWideArithmeticNeeded : Obligations.NoWideArithmeticNeeded := by
  intro r
  have hr := toNat_eq_parts r
  have hlo := (lowerPart r).isLt
  rw [atLeastM_iff, upperPart_ne_zero_iff, subtractM_toNat, config_M]
  refine ⟨by omega, by omega, fun hpos hlt => ?_⟩
  have hpre := preCorrect_add_of_test ((preTest_iff r).mp ⟨hpos, hlt⟩)
  rw [config_M] at hpre
  rw [preK_eq] at hpos ⊢
  omega

/-- Settles O47: `q - 1` does not wrap unless `q = 0`, and then all ones are no less than 127. -/
theorem unsignedKAgrees : Obligations.UnsignedKAgrees := by
  intro n r hn
  have hpow : 2 ^ 7 ≤ 2 ^ n := Nat.pow_le_pow_right (by decide) hn
  have hq := (upperPart r).isLt
  rw [preK, config_KLIM]
  generalize (upperPart r).toNat = q at hq
  refine ⟨?_, by omega⟩
  obtain rfl | hpos := Nat.eq_zero_or_pos q
  · rw [Nat.zero_add, Nat.mod_eq_of_lt (by omega)]
    omega
  · rw [Nat.sub_add_comm hpos, Nat.add_mod_right, Nat.mod_eq_of_lt (by omega)]
    omega

/-! ### The bound of the loop on the block -/

/-- Settles O37: the chain leaves room for two subtractions, and no effect leads out of the invariant, which has no
state with this cause. -/
theorem corrBoundUnreachable : Obligations.CorrBoundUnreachable := by
  intro s hs
  refine ⟨fun hp => ?_, fun i t he => ((exec_effect he).keeps_inv hs).inBound⟩
  obtain ⟨-, hlt⟩ := (State.chain_of_corr hp).mp hs.onChain
  rw [config_M] at hlt
  omega

end Sys2Proof.Machine

/-! # The faults: the two commands that raise one, and fault entry over all instructions -/

namespace Sys2Proof.Machine

/-! ### Fault entry leaves the block neither ready nor busy (R126) -/

@[simp] theorem State.ready_raise (s : State) (c : Cause) : (s.raise c).ready = false := rfl

@[simp] theorem State.busy_raise (s : State) (c : Cause) : (s.raise c).busy = false := rfl

/-- Of the effects only the three fault entries of R120 write `FAULT` or `CAUSE`. -/
theorem Effect.exists_raise {i : Instr} {s t : State} (h : Effect s i t)
    (hw : t.fault ≠ s.fault ∨ t.cause ≠ s.cause) :
    ∃ c, t = s.raise c ∧
      ((∃ v, i = .seed v ∧ s.ready = true ∧ Config.M ≤ v.toNat ∧ c = .seedRange) ∨
       (∃ d, i = .step d ∧ s.ready = true ∧ s.seeded = false ∧ c = .unseeded) ∨
       (i = .corr ∧ s.phase = .corr ∧ s.fault = false ∧ Config.M ≤ s.r.toNat ∧ s.cnt.toNat = 3 ∧
         c = .corrBound)) := by
  cases h with
  | seedRange hr hv => exact ⟨_, rfl, .inl ⟨_, rfl, hr, hv, rfl⟩⟩
  | unseeded hr hs => exact ⟨_, rfl, .inr (.inl ⟨_, rfl, hr, hs, rfl⟩)⟩
  | corrBound hp hf hr hn => exact ⟨_, rfl, .inr (.inr ⟨rfl, hp, hf, hr, hn, rfl⟩)⟩
  | _ => simp at hw

/-- Settles O31: what writes `FAULT` or `CAUSE` is the shared fault entry, so the frame is that operation's. -/
theorem faultEntry : Obligations.FaultEntry := by
  intro i s t h hw
  obtain ⟨c, rfl, hcond⟩ := (exec_effect h).exists_raise hw
  exact ⟨rfl, s.ready_raise c, s.busy_raise c, hcond⟩

/-! ### Every turn answers -/

theorem step_answers (s : State) : ∃ t, step s = .next t := by
  cases h0 : s.ports.reset with
  | true => exact ⟨_, step_of_reset h0⟩
  | false => exact step_of_no_reset h0 ▸ exec_answers (decode s.fetch) s.nextTurn

/-- Settles O10. -/
theorem everyStepAnswers : Obligations.EveryStepAnswers :=
  ⟨exec_answers, step_answers⟩

/-! ### The commands that fault -/

/-- Settles O15: a ready block accepts the SEED, and the value fails the range check. -/
theorem seedOutOfRangeFaults : Obligations.SeedOutOfRangeFaults := by
  intro s v hp hf hv
  have hrange : ¬seedInRange v = true := mt (seedInRange_iff v).mp hv.not_gt
  rw [exec, execSeed, State.accept_of_ready (s.ready_iff.mpr ⟨hp, hf⟩), if_neg hrange, State.raise]

/-- Settles O17: a ready block accepts the STEP, and `SEEDED` is tested before `X` is read. -/
theorem stepUnseededFaults : Obligations.StepUnseededFaults := by
  intro s d hp hf hs
  have hseeded : ¬s.seeded = true := Bool.eq_false_iff.mp hs
  rw [exec, execStep, State.accept_of_ready (s.ready_iff.mpr ⟨hp, hf⟩), if_neg hseeded, State.raise]

end Sys2Proof.Machine

/-! # The reset event: the state it leaves, and what it forgets -/

namespace Sys2Proof.Machine

/-- R140: only READY is set, since `PHASE`, `SEEDED`, `FAULT` and `CAUSE` are all that the status word shows. -/
@[simp] theorem State.status_resetEvent (s : State) : s.resetEvent.status = 0b000001#6 := by
  simp [State.status, State.ready, State.busy, phaseBusy, causeCode]

/-- The reset event writes every field but `inputs`, and the free values depend on `resets` alone (log entry 3). -/
theorem State.resetEvent_congr {s t : State} (hi : s.inputs = t.inputs) (hr : s.resets = t.resets) :
    s.resetEvent = t.resetEvent := by
  rw [State.resetEvent, State.resetEvent, hi, hr]

/-- Settles O11: a turn with the reset event ends in `resetEvent`, whatever the phase. -/
theorem resetEvent : Obligations.ResetEvent := by
  intro s h0
  exact ⟨_, step_of_reset h0, s.nextTurn.resetEvent_phase, s.nextTurn.resetEvent_seeded,
    s.nextTurn.resetEvent_fault, s.nextTurn.resetEvent_cause, s.nextTurn.status_resetEvent,
    s.nextTurn.resetEvent_inputs⟩

/-- Settles O12: the two turns end in the reset events of states with the same later turns and count of resets. -/
theorem resetForgets : Obligations.ResetForgets := by
  intro s t hs ht hinputs hresets
  have hreset : s.nextTurn.resetEvent = t.nextTurn.resetEvent := State.resetEvent_congr hinputs hresets
  rw [step_of_reset hs, step_of_reset ht, hreset]

end Sys2Proof.Machine
